-- ==== Sys2Proof/Word.lean ====
section
/-! DEFINITION. The widths of 00_scope.md R6 and the word of the command port (10_state.md R31). -/

namespace Sys2Proof

/-- The bus word, 8 bits (R6, R56). -/
abbrev Byte := BitVec 8

/-- The command word `CMD[15:0]` (R31, R70). -/
abbrev CmdWord := BitVec 16

/-- The operand word `DATA[31:0]` (R31). -/
abbrev DataWord := BitVec 32

/-- One raw sample, 16 bits (R6, R12). -/
abbrev RawSample := BitVec 16

/-- A resistance, unsigned ohms × 100, 16 bits (R6). -/
abbrev Ohms := BitVec 16

/-- A temperature, unsigned °C × 100, 32 bits (R6). -/
abbrev Temperature := BitVec 32

/-- A calibration, unsigned ohms × 100, 32 bits (R6, R22). -/
abbrev Calibration := BitVec 32

/-- What the host puts on the command port: one command word and one operand word beside it (R31, R70). -/
structure Command where
  cmd  : CmdWord
  data : DataWord
  deriving DecidableEq, Repr

end Sys2Proof
end

