-- ==== Sys2Proof/Machine/Ports.lean ====
section
/-! DEFINITION. What crosses the block's interfaces: the collaborators' answers and the events (00_scope.md R8, R9; 10_state.md R33 to R35), the host's response (10_state.md R32), and a port through which answers reach the block. -/

namespace Sys2Proof.Machine

/-- A pin level (R8). For chip-select, assert is LOW and deassert is HIGH; the ready signal is active LOW (R12). -/
inductive Level where
  | low
  | high
  deriving DecidableEq, Repr, Inhabited

/-- The type given for parameter `E` of R6, the transport error payload, in the one machine that the host runs. The model takes `E` as an argument: every definition that carries a payload is for any type (log 9, DESIGN CHOICE). -/
structure BusError where
  code : Nat
  deriving DecidableEq, Repr

/-- The type given for parameter `P` of R6, the pin error payload, in the one machine that the host runs (92_eei_decisions.md D31) (log 9, DESIGN CHOICE). -/
structure PinError where
  code : Nat
  deriving DecidableEq, Repr

/-- The answer of a pin collaborator (R34, R35). -/
inductive PinAnswer (α : Type) (P : Type) where
  | ok (a : α)
  | pinErr (p : P)
  deriving DecidableEq, Repr

/-- The answer of the bus collaborator (R33). -/
inductive BusAnswer (α : Type) (E : Type) where
  | ok (a : α)
  | busErr (e : E)
  deriving DecidableEq, Repr

/-- The bytes on the receive side of one transfer. A transfer of `n` bytes (at most 15, R6) receives the first `n` of them (R33); the others are not received and nothing reads them (log 14). -/
abbrev RxBytes := Vector Byte 15

/-- One event on an external interface with its answer (R9). `none` is a collaborator that never answers (R243). -/
inductive Event (E : Type) (P : Type) where
  | csDrive  (level : Level) (answer : Option (PinAnswer Unit P))
  | busWrite (tx : List Byte) (answer : Option (BusAnswer Unit E))
  | busXfer  (tx : List Byte) (answer : Option (BusAnswer (List Byte) E))
  | drdyRead (answer : Option (PinAnswer Level P))
  deriving DecidableEq, Repr

/-- The status codes of 60_exceptions.md R200. The codes 0x7 to 0xF are never produced. -/
inductive Status where
  | ok
  | transport
  | pin
  | illegal
  | notInit
  | mulOvf
  | lutRange
  deriving DecidableEq, Repr

/-- The 4-bit `STATUS` field of each status (R200). -/
def Status.code : Status → BitVec 4
  | .ok        => 0x0
  | .transport => 0x1
  | .pin       => 0x2
  | .illegal   => 0x3
  | .notInit   => 0x4
  | .mulOvf    => 0x5
  | .lutRange  => 0x6

/-- The `ERR` field (R32): no payload, or an error passed on verbatim. -/
inductive ErrPayload (E : Type) (P : Type) where
  | none
  | bus (e : E)
  | pin (p : P)
  deriving DecidableEq, Repr

/-- `BUF[0..14]` with every byte 0. -/
def zeroBuf : Vector Byte 15 :=
  Vector.ofFn fun _ => 0

/-- One response (R32). A field that the command's rule does not name is 0, and `ERR` is then `none`: those are the default values here. -/
structure Response (E : Type) (P : Type) where
  status : Status
  d32    : BitVec 32      := 0
  d16    : BitVec 16      := 0
  len    : Fin 16         := 0
  buf    : Vector Byte 15 := zeroBuf
  err    : ErrPayload E P := .none
  deriving DecidableEq, Repr

/-- The answers that reach the block through one interface: `script` holds those the environment has lined up, oldest first, and `asked` counts those already taken. Beyond the script every answer is a free draw indexed by that count (log 4). -/
structure Port (α : Type) where
  script : List α
  asked  : Nat
  deriving DecidableEq, Repr

/-- A port with nothing scripted and nothing taken. -/
def Port.fresh {α : Type} : Port α := { script := [], asked := 0 }

/-- The answer to the `k`-th event from now on this port (0 is the next one), given the free draws (R9). -/
def Port.reply {α : Type} (draw : Nat → α) (p : Port α) (k : Nat) : α :=
  p.script.getD k (draw (p.asked + k))

/-- The port after `k` more events. -/
def Port.skip {α : Type} (p : Port α) (k : Nat) : Port α :=
  { script := p.script.drop k, asked := p.asked + k }

end Sys2Proof.Machine
end

