-- ==== Sys2Proof/Syntax.lean ====
section
/-! DEFINITION. The command set: one constructor per row of spec/opcode_table.json (30_encoding.md R71), with the operands of R72 as named values instead of bits. -/

namespace Sys2Proof

/-- The eight chip registers in the order of the source's list (R50, R73). -/
inductive RegId where
  | config
  | rtdMsb
  | rtdLsb
  | highFaultMsb
  | highFaultLsb
  | lowFaultMsb
  | lowFaultLsb
  | faultStatus
  deriving DecidableEq, Repr

/-- The direction operand of ENCADDR (R72). -/
inductive Dir where
  | read
  | write
  deriving DecidableEq, Repr

/-- The sensor wiring field (R78). -/
inductive Wiring where
  | twoOrFourWire
  | threeWire
  deriving DecidableEq, Repr

/-- The noise-rejection filter field (R78). -/
inductive Filter where
  | hz60
  | hz50
  deriving DecidableEq, Repr

/-- The ten commands. -/
inductive Instr where
  /-- ENCADDR reg, dir (R101). -/
  | encaddr (reg : RegId) (dir : Dir)
  /-- WRITE reg, val (R102). -/
  | write (reg : RegId) (val : Byte)
  /-- READN reg, n (R110). -/
  | readn (reg : RegId) (n : Fin 16)
  /-- INIT (R130). -/
  | init
  /-- CONFIG (R135). -/
  | config (vbias mode oneshot : Bool) (wiring : Wiring) (filter : Filter)
  /-- SETCAL with DATA[31:0] (R140). -/
  | setcal (cal : Calibration)
  /-- ISRDY (R145). -/
  | isrdy
  /-- RDRAW (R150). -/
  | rdraw
  /-- RDCONV (R170). -/
  | rdconv
  /-- CONVERT with DATA[15:0] (R160). -/
  | convert (raw : RawSample)
  deriving DecidableEq, Repr

end Sys2Proof
end

