-- ==== Sys2Proof/Config.lean ====
section
/-! DEFINITION. The parameters of 00_scope.md R6, their default values, and the free values. -/

namespace Sys2Proof

namespace Config

/-- FREE VALUE. The answer of the chip-select pin to its `k`-th event when none is scripted (R9, R34); `none` never answers (R243). -/
opaque csDraw (P : Type) : Nat → Option (Machine.PinAnswer Unit P)

/-- FREE VALUE. The answer of the bus to its `k`-th BusWrite when none is scripted (R9, R33). -/
opaque writeDraw (E : Type) : Nat → Option (Machine.BusAnswer Unit E)

/-- FREE VALUE. The answer of the bus to its `k`-th BusXfer when none is scripted (R9, R28, R33). -/
opaque xferDraw (E : Type) : Nat → Option (Machine.BusAnswer Machine.RxBytes E)

/-- FREE VALUE. The answer of the ready pin to its `k`-th read when none is scripted (R9, R28, R35). -/
opaque drdyDraw (P : Type) : Nat → Option (Machine.PinAnswer Machine.Level P)

/-- FREE VALUE. The chip-select line's level where R25 calls it a draw: at power-on (index 0) and after the `k`-th CsDrive (index `k`) when that did not answer Ok. -/
opaque lineDraw : Nat → Machine.Level

/-- FREE VALUE. The LUT that the implementation supplies, of unknown contents (R6, R165; 91_not_in_source.md on 42_conversion.md). -/
opaque lut : Ohms → Option Temperature

end Config

/-- OVF_POLICY (R6, R162). -/
inductive OvfPolicy where
  | fault
  | wrap
  deriving DecidableEq, Repr

/-- CS_ON_XFER_ERROR (R6, R100). -/
inductive CsPolicy where
  | deassert
  | hold
  deriving DecidableEq, Repr

/-- Parameter LUT (R6, R36): the implementation's own table of unknown contents, or a table given by its entries, in which an input without an entry is `None` and the first of two entries for one input counts (log 8). -/
inductive Lut where
  | supplied
  | table (entries : List (Ohms × Temperature))
  deriving DecidableEq, Repr

/-- The parameters that R6 has the model take as arguments. No step changes them (log 7). -/
structure Params where
  regBase       : Vector (BitVec 7) 8
  lut           : Lut
  ovfPolicy     : OvfPolicy
  csOnXferError : CsPolicy
  deriving DecidableEq, Repr

/-- The default values of R6: REG_BASE(id) = id (general knowledge G1, log 7), FAULT, DEASSERT; the LUT has no default and is the supplied one. -/
def Params.default : Params :=
  { regBase       := #v[0, 1, 2, 3, 4, 5, 6, 7]
    lut           := .supplied
    ovfPolicy     := .fault
    csOnXferError := .deassert }

end Sys2Proof
end

