-- ==== Sys2Proof/Machine/State.lean ====
section
/-! DEFINITION. The machine's state: the four items of 10_state.md R20, the block's interfaces (R25, R31 to R36), the parameters (00_scope.md R6) and the event history (60_exceptions.md R228); and the state right after power-on (10_state.md R37). -/

namespace Sys2Proof.Machine

/-- LIFE (R23): does a driver instance exist? -/
inductive Life where
  | uninit
  | ready
  deriving DecidableEq, Repr

/-- CS_REQ (R24): the level last asked of the chip-select pin. -/
inductive CsReq where
  | unknown
  | low
  | high
  deriving DecidableEq, Repr

/-- PHASE (R26). A whole command is one step, so BUSY stands between steps only when a collaborator never answers (R243, log 2, log 3). -/
inductive Phase where
  | idle
  | busy
  deriving DecidableEq, Repr

/-- The machine's faults: none. Every error of the spec is a status in a response, after which the block goes on (60_exceptions.md R215, R216), and a collaborator that never answers leaves the block BUSY, a state that is not final (R243) (log 18). -/
inductive Fault
  deriving DecidableEq, Repr

/-- The machine's refusals. -/
inductive Refusal where
  /-- Raised by exec for a command that has no meaning yet; safe. No arm of exec raises it now (log 18). -/
  | notModelled (mnemonic : String)
  deriving DecidableEq, Repr

/-- The machine's state, for any payload types `E` and `P` (R6, 92_eei_decisions.md D31). -/
structure State.Of (E P : Type) where
  /-- CAL, the calibration reference resistance in ohms × 100 (R22). -/
  cal       : Calibration
  /-- LIFE (R23). -/
  life      : Life
  /-- CS_REQ (R24). -/
  csReq     : CsReq
  /-- PHASE (R26). -/
  phase     : Phase
  /-- The level of the chip-select line (R25, R37): no command reads it. -/
  csLine    : Level
  /-- The command port (R31): the commands the host presents, in order; the head is presented now (log 1). -/
  commands  : List Command
  /-- The response port (R32): the response presented, if any (log 11). -/
  resp      : Option (Response E P)
  /-- The chip-select pin's answers (R34). -/
  csPort    : Port (Option (PinAnswer Unit P))
  /-- The bus's answers to BusWrite (R33). -/
  writePort : Port (Option (BusAnswer Unit E))
  /-- The bus's answers to BusXfer (R33). -/
  xferPort  : Port (Option (BusAnswer RxBytes E))
  /-- The ready pin's answers (R35). -/
  drdyPort  : Port (Option (PinAnswer Level P))
  /-- Every external event so far with its answer, oldest first (R9, R228, log 12). -/
  history   : List (Event E P)
  /-- The parameters (R6); no step changes them (log 7). -/
  params    : Params
  deriving DecidableEq, Repr

/-- Power-on (R37, R240). CAL is unspecified there: 0 is a DESIGN CHOICE (log 5). The chip-select line is a draw (log 6). No command is presented and no answer is scripted (log 1, log 4). -/
def State.Of.powerOn {E P : Type} : State.Of E P :=
  { cal       := 0
    life      := .uninit
    csReq     := .unknown
    phase     := .idle
    csLine    := Config.lineDraw 0
    commands  := []
    resp      := none
    csPort    := Port.fresh
    writePort := Port.fresh
    xferPort  := Port.fresh
    drdyPort  := Port.fresh
    history   := []
    params    := Params.default }

/-- The state of the machine that the host runs, at the payload types BusError and PinError (log 9). -/
abbrev State := State.Of BusError PinError

/-- The state right after power-on of the machine that the host runs (R37, R240): every field as State.Of.powerOn has it. -/
def State.reset : State := State.Of.powerOn

end Sys2Proof.Machine
end

