-- ==== Sys2Proof/Machine/Flags.lean ====
section
/-! DEFINITION. The block has no flags and no status register (10_state.md R29). Two bits carry status, both in responses: the ready bit of ISRDY and the chip's fault flag, bit 0 of a raw sample. -/

namespace Sys2Proof.Machine

/-- The ready bit of ISRDY (41_driver_ops.md R145): 1 exactly when the pin answered LOW; a pin error is absorbed and reads as 0 (R208). -/
def readyBit {P : Type} : PinAnswer Level P → BitVec 1
  | .ok .low   => 1
  | .ok .high  => 0
  | .pinErr _  => 0

/-- The chip's fault flag, `raw[0]` (R29). RDRAW passes it on; no conversion reads it (R161). -/
def faultFlag (raw : RawSample) : Bool := raw.getLsbD 0

end Sys2Proof.Machine
end

