-- ==== Sys2Proof/WellFormed.lean ====
section
/-! DEFINITION. Which terms of Instr are commands. The operand types carry every bound of 30_encoding.md R72 but one: READN's byte count is 1..15, and n = 0 is illegal (R81 item 3). -/

namespace Sys2Proof

/-- READN has a byte count other than 0 (R72, R81); every other term is well formed. -/
def Instr.wellFormed : Instr → Bool
  | .encaddr _ _        => true
  | .write _ _          => true
  | .readn _ n          => decide (n ≠ 0)
  | .init               => true
  | .config _ _ _ _ _   => true
  | .setcal _           => true
  | .isrdy              => true
  | .rdraw              => true
  | .rdconv             => true
  | .convert _          => true

end Sys2Proof
end

