-- ==== Sys2Proof/Decode.lean ====
section
/-! DEFINITION. From command words to commands and back (30_encoding.md R70 to R73, R80, R81). Decoding is total and rejects by name; the encoder is written from the same formats. -/

namespace Sys2Proof

/-- The register id of each register (R50, R73), as the number that indexes REG_BASE. -/
def RegId.index : RegId → Fin 8
  | .config       => 0
  | .rtdMsb       => 1
  | .rtdLsb       => 2
  | .highFaultMsb => 3
  | .highFaultLsb => 4
  | .lowFaultMsb  => 5
  | .lowFaultLsb  => 6
  | .faultStatus  => 7

/-- The field `reg` (R70, R72). -/
def RegId.bits (r : RegId) : BitVec 3 := BitVec.ofFin r.index

/-- The register that a field value names; all eight values name one (R73). -/
def RegId.ofBits (b : BitVec 3) : RegId :=
  match b.toNat with
  | 0 => .config
  | 1 => .rtdMsb
  | 2 => .rtdLsb
  | 3 => .highFaultMsb
  | 4 => .highFaultLsb
  | 5 => .lowFaultMsb
  | 6 => .lowFaultLsb
  | _ => .faultStatus

/-- The field `dir` (R72): 0 read address, 1 write address. -/
def Dir.bit : Dir → Bool
  | .read  => false
  | .write => true

/-- The direction that a field value names. -/
def Dir.ofBit (b : Bool) : Dir := if b then .write else .read

/-- The field `wiring` (R78). -/
def Wiring.bit : Wiring → Bool
  | .twoOrFourWire => false
  | .threeWire     => true

/-- The wiring that a field value names (R78). -/
def Wiring.ofBit (b : Bool) : Wiring := if b then .threeWire else .twoOrFourWire

/-- The field `filter` (R78). -/
def Filter.bit : Filter → Bool
  | .hz60 => false
  | .hz50 => true

/-- The filter that a field value names (R78). -/
def Filter.ofBit (b : Bool) : Filter := if b then .hz50 else .hz60

/-- Why a command is illegal (R81), one name for each of its four items. -/
inductive Illegal where
  /-- Item 1: an opcode without a command. -/
  | unusedOpcode (opcode : BitVec 4)
  /-- Item 2: a reserved bit is set; the mask holds the format's reserved bits. -/
  | reservedBits (mask : CmdWord)
  /-- Item 3: READN with n = 0. -/
  | zeroCount
  /-- Item 4: CONVERT with DATA[31:16] ≠ 0. -/
  | wideData
  deriving DecidableEq, Repr

/-- CMD[15:12] (R70, R80). -/
def opcodeField (w : CmdWord) : BitVec 4 := w.extractLsb' 12 4

/-- `reg = CMD[10:8]` (R72). -/
def regField (w : CmdWord) : RegId := RegId.ofBits (w.extractLsb' 8 3)

/-- `val = CMD[7:0]` (R72). -/
def valField (w : CmdWord) : Byte := w.extractLsb' 0 8

/-- `n = CMD[3:0]` (R72). -/
def countField (w : CmdWord) : Fin 16 := (w.extractLsb' 0 4).toFin

/-- The reserved bits of ENCADDR: CMD[11] and CMD[7:1] (R81). -/
def reservedEncaddr : CmdWord := 0x08FE
/-- The reserved bit of WRITE: CMD[11] (R81). -/
def reservedWrite : CmdWord := 0x0800
/-- The reserved bits of READN: CMD[11] and CMD[7:4] (R81). -/
def reservedReadn : CmdWord := 0x08F0
/-- The reserved bits of CONFIG: CMD[11:8] and CMD[3:1] (R81). -/
def reservedConfig : CmdWord := 0x0F0E
/-- The reserved bits of a format-Z command: CMD[11:0] (R81). -/
def reservedZ : CmdWord := 0x0FFF

/-- `r`, unless a bit of the word that `mask` reserves is set (R81 item 2). -/
def unlessReserved (w mask : CmdWord) (r : Except Illegal Instr) : Except Illegal Instr :=
  if w &&& mask = 0 then r else .error (.reservedBits mask)

/-- READN, unless n = 0 (R81 item 3). -/
def readnOf (reg : RegId) (n : Fin 16) : Except Illegal Instr :=
  if n = 0 then .error .zeroCount else .ok (.readn reg n)

/-- CONVERT, unless DATA[31:16] ≠ 0 (R81 item 4). -/
def convertOf (d : DataWord) : Except Illegal Instr :=
  if d.extractLsb' 16 16 = 0 then .ok (.convert (d.extractLsb' 0 16)) else .error .wideData

/-- The CONFIG command of a word's field bits (R72: "taken from their own positions"). -/
def configOf (w : CmdWord) : Instr :=
  .config (w.getLsbD 7) (w.getLsbD 6) (w.getLsbD 5) (Wiring.ofBit (w.getLsbD 4)) (Filter.ofBit (w.getLsbD 0))

/-- The decoder (R71, R80, R81). The opcode alone selects the command; DATA is ignored but by SETCAL and CONVERT. -/
def decode (c : Command) : Except Illegal Instr :=
  match (opcodeField c.cmd).toNat with
  | 0x1 => unlessReserved c.cmd reservedEncaddr (.ok (.encaddr (regField c.cmd) (Dir.ofBit (c.cmd.getLsbD 0))))
  | 0x2 => unlessReserved c.cmd reservedWrite (.ok (.write (regField c.cmd) (valField c.cmd)))
  | 0x3 => unlessReserved c.cmd reservedReadn (readnOf (regField c.cmd) (countField c.cmd))
  | 0x4 => unlessReserved c.cmd reservedZ (.ok .init)
  | 0x5 => unlessReserved c.cmd reservedConfig (.ok (configOf c.cmd))
  | 0x6 => unlessReserved c.cmd reservedZ (.ok (.setcal c.data))
  | 0x7 => unlessReserved c.cmd reservedZ (.ok .isrdy)
  | 0x8 => unlessReserved c.cmd reservedZ (.ok .rdraw)
  | 0x9 => unlessReserved c.cmd reservedZ (.ok .rdconv)
  | 0xA => unlessReserved c.cmd reservedZ (convertOf c.data)
  | _   => .error (.unusedOpcode (opcodeField c.cmd))

/-- The configuration word (R77), field by field as the rule's formula has it. -/
def cfgWord (vbias mode oneshot : Bool) (wiring : Wiring) (filter : Filter) : Byte :=
  (BitVec.ofBool vbias).zeroExtend 8 <<< 7 ||| (BitVec.ofBool mode).zeroExtend 8 <<< 6 |||
    (BitVec.ofBool oneshot).zeroExtend 8 <<< 5 ||| (BitVec.ofBool wiring.bit).zeroExtend 8 <<< 4 |||
    (BitVec.ofBool filter.bit).zeroExtend 8 <<< 0

/-- The command word of each command, field after field from the top bit (R70, R71). -/
def encodeWord : Instr → CmdWord
  | .encaddr reg dir => (0x1#4 ++ 0#1 ++ reg.bits ++ 0#7 ++ BitVec.ofBool dir.bit : BitVec 16)
  | .write reg val => (0x2#4 ++ 0#1 ++ reg.bits ++ val : BitVec 16)
  | .readn reg n => (0x3#4 ++ 0#1 ++ reg.bits ++ 0#4 ++ (BitVec.ofFin n : BitVec 4) : BitVec 16)
  | .init => 0x4000
  | .config vbias mode oneshot wiring filter =>
    (0x5#4 ++ 0#4 ++ BitVec.ofBool vbias ++ BitVec.ofBool mode ++ BitVec.ofBool oneshot ++
      BitVec.ofBool wiring.bit ++ 0#3 ++ BitVec.ofBool filter.bit : BitVec 16)
  | .setcal _ => 0x6000
  | .isrdy => 0x7000
  | .rdraw => 0x8000
  | .rdconv => 0x9000
  | .convert _ => 0xA000

/-- The operand word of each command; it is 0 where the command names none (R82). -/
def encodeData : Instr → DataWord
  | .encaddr _ _      => 0
  | .write _ _        => 0
  | .readn _ _        => 0
  | .init             => 0
  | .config _ _ _ _ _ => 0
  | .setcal cal       => cal
  | .isrdy            => 0
  | .rdraw            => 0
  | .rdconv           => 0
  | .convert raw      => raw.zeroExtend 32

/-- The encoder: what the host presents for a command. -/
def encode (i : Instr) : Command := { cmd := encodeWord i, data := encodeData i }

/-- One row of the opcode table: the word matches when its bits under `mask` are `pattern`. -/
structure Row where
  pattern : CmdWord
  mask    : CmdWord
  deriving DecidableEq, Repr

/-- Does a word match a row? -/
def Row.covers (r : Row) (w : CmdWord) : Bool := w &&& r.mask == r.pattern

/-- The row of each command in spec/opcode_table.json ("match" and "mask"). -/
def rowOf : Instr → Row
  | .encaddr _ _      => { pattern := 0x1000, mask := 0xF8FE }
  | .write _ _        => { pattern := 0x2000, mask := 0xF800 }
  | .readn _ _        => { pattern := 0x3000, mask := 0xF8F0 }
  | .init             => { pattern := 0x4000, mask := 0xFFFF }
  | .config _ _ _ _ _ => { pattern := 0x5000, mask := 0xFF0E }
  | .setcal _         => { pattern := 0x6000, mask := 0xFFFF }
  | .isrdy            => { pattern := 0x7000, mask := 0xFFFF }
  | .rdraw            => { pattern := 0x8000, mask := 0xFFFF }
  | .rdconv           => { pattern := 0x9000, mask := 0xFFFF }
  | .convert _        => { pattern := 0xA000, mask := 0xFFFF }

/-- The command whose bits, numbered as the opcode table numbers them, are `w`: CMD is bits 15..0, DATA the next 32 bits, and every bit from `nbits` up is 0 (log 19). -/
def commandOfTableWord (nbits w : Nat) : Command :=
  let v := w % 2 ^ nbits
  { cmd := BitVec.ofNat 16 v, data := BitVec.ofNat 32 (v / 2 ^ 16) }

/-- What the decoder reads from that command; `none` where it refuses. -/
def decodeTableWord (nbits w : Nat) : Option Instr :=
  match decode (commandOfTableWord nbits w) with
  | .ok i    => some i
  | .error _ => none

end Sys2Proof
end

