-- ==== Sys2Proof/Machine/Operands.lean ====
section
/-! DEFINITION. The values that go on the bus and come off it: address bytes (30_encoding.md R74 to R76), transmit buffers (R79, R111), the received buffer (40_bus_framer.md R112), the raw composition (20_memory.md R53), and the LUT (10_state.md R36). -/

namespace Sys2Proof.Machine

/-- `REG_BASE(reg)`, 7 bits (R6, R50). -/
def regBase (p : Params) (reg : RegId) : BitVec 7 := p.regBase[reg.index]

/-- `read_address(reg)` (R75). -/
def readAddress (p : Params) (reg : RegId) : Byte := (regBase p reg).zeroExtend 8 ||| 0x00

/-- `write_address(reg)` (R76). -/
def writeAddress (p : Params) (reg : RegId) : Byte := (regBase p reg).zeroExtend 8 ||| 0x80

/-- The address byte of a register and a direction (R74). -/
def addressByte (p : Params) (reg : RegId) : Dir → Byte
  | .read  => readAddress p reg
  | .write => writeAddress p reg

/-- READN's transmit buffer: the read address and n−1 bytes 0x00 (R110, R111). -/
def readnTx (p : Params) (reg : RegId) (n : Fin 16) : List Byte :=
  readAddress p reg :: List.replicate (n.val - 1) 0x00

/-- `BUF`: the first `n` received bytes, 0 beyond them (R32, R112). -/
def receivedBuf (n : Fin 16) (rx : RxBytes) : Vector Byte 15 :=
  Vector.ofFn fun i => if i.val < n.val then rx[i] else 0

/-- `raw = (msb << 8) | lsb` with both bytes zero-extended to 16 bits first (R53, R150). -/
def composeRaw (msb lsb : Byte) : RawSample :=
  msb.zeroExtend 16 <<< 8 ||| lsb.zeroExtend 16

/-- `Lut(q)` (R8, R36). -/
def Lut.lookup : Lut → Ohms → Option Temperature
  | .supplied,      q => Config.lut q
  | .table entries, q => (entries.find? fun e => e.1 == q).map Prod.snd

end Sys2Proof.Machine
end

