-- ==== Sys2Proof/Machine/Ops.lean ====
section
/-! DEFINITION. The shared operations: the four external events (00_scope.md R8), respond and raise (R8, 60_exceptions.md R215), a collaborator that never answers (70_reset_and_hazards.md R243), the NOT_INIT check (60_exceptions.md R205), accepting a command (10_state.md R26), FRAME (40_bus_framer.md R100) and READ_RAW (41_driver_ops.md R150). -/

namespace Sys2Proof.Machine

variable {E P : Type}

/-- The answer to the `k`-th CsDrive from now. -/
def State.Of.csAt (s : State.Of E P) (k : Nat) : Option (PinAnswer Unit P) := s.csPort.reply (Config.csDraw P) k

/-- The answer to the `k`-th BusWrite from now. -/
def State.Of.writeAt (s : State.Of E P) (k : Nat) : Option (BusAnswer Unit E) := s.writePort.reply (Config.writeDraw E) k

/-- The answer to the `k`-th BusXfer from now. -/
def State.Of.xferAt (s : State.Of E P) (k : Nat) : Option (BusAnswer RxBytes E) := s.xferPort.reply (Config.xferDraw E) k

/-- The answer to the `k`-th DrdyRead from now. -/
def State.Of.drdyAt (s : State.Of E P) (k : Nat) : Option (PinAnswer Level P) := s.drdyPort.reply (Config.drdyDraw P) k

/-- `respond` (R8): present the response and go back to IDLE (R26). -/
def respond (r : Response E P) (s : State.Of E P) : State.Of E P :=
  { s with resp := some r, phase := .idle }

/-- `raise X(info)` (R8): the block's only exception entry. It saves nothing and transfers nowhere: it ends the command with the error's response, every other field 0 (R32, R215). There is no return from it (R216). -/
def raise (x : Status) (info : ErrPayload E P) (s : State.Of E P) : State.Of E P :=
  respond { status := x, err := info } s

/-- A collaborator never answers (R243): the block stays BUSY and presents no response. -/
def hang (s : State.Of E P) : State.Of E P :=
  { s with phase := .busy, resp := none }

/-- Accepting the command at the head of the port (R26): BUSY, and the port goes on to the commands behind it. The previous response is no longer presented (log 11). -/
def accept (rest : List Command) (s : State.Of E P) : State.Of E P :=
  { s with commands := rest, phase := .busy, resp := none }

/-- The value CS_REQ takes from a request (R24). -/
def Level.request : Level → CsReq
  | .low  => .low
  | .high => .high

/-- The chip-select line after a request (R25): at the level when it answered Ok, else a draw (log 6). -/
def lineAfter (l : Level) (draw : Level) : Option (PinAnswer Unit P) → Level
  | some (.ok _)     => l
  | some (.pinErr _) => draw
  | none             => draw

/-- `CsDrive(l)` (R8, R34). CS_REQ is written before the result is known, whatever it is (R24). -/
def csDrive (l : Level) (s : State.Of E P) : Option (PinAnswer Unit P) × State.Of E P :=
  (s.csAt 0,
    { s with
      csReq   := l.request
      csLine  := lineAfter l (Config.lineDraw (s.csPort.asked + 1)) (s.csAt 0)
      csPort  := s.csPort.skip 1
      history := s.history ++ [.csDrive l (s.csAt 0)] })

/-- `BusWrite(tx)` (R8, R33). -/
def busWrite (tx : List Byte) (s : State.Of E P) : Option (BusAnswer Unit E) × State.Of E P :=
  (s.writeAt 0,
    { s with
      writePort := s.writePort.skip 1
      history   := s.history ++ [.busWrite tx (s.writeAt 0)] })

/-- What the history shows of a transfer's answer: as many received bytes as were sent (R33). -/
def received (tx : List Byte) : BusAnswer RxBytes E → BusAnswer (List Byte) E
  | .ok rx    => .ok (rx.toList.take tx.length)
  | .busErr e => .busErr e

/-- `BusXfer(tx)` (R8, R33). -/
def busXfer (tx : List Byte) (s : State.Of E P) : Option (BusAnswer RxBytes E) × State.Of E P :=
  (s.xferAt 0,
    { s with
      xferPort := s.xferPort.skip 1
      history  := s.history ++ [.busXfer tx ((s.xferAt 0).map (received tx))] })

/-- `DrdyRead()` (R8, R35). -/
def drdyRead (s : State.Of E P) : Option (PinAnswer Level P) × State.Of E P :=
  (s.drdyAt 0,
    { s with
      drdyPort := s.drdyPort.skip 1
      history  := s.history ++ [.drdyRead (s.drdyAt 0)] })

/-- The NOT_INIT check (R205): without an instance the command is refused and `k` does not run. -/
def requireInit (k : State.Of E P → State.Of E P) (s : State.Of E P) : State.Of E P :=
  match s.life with
  | .uninit => raise .notInit .none s
  | .ready  => k s

/-- Does FRAME deassert chip-select after this bus answer (R100)? Always but after an error under HOLD. -/
def deasserts {α : Type} (p : CsPolicy) : BusAnswer α E → Bool
  | .ok _     => true
  | .busErr _ => match p with
    | .deassert => true
    | .hold     => false

/-- `FRAME(prim, tx)` (R100): assert, exactly one bus event, deassert. The pin's own answers are ignored (R104); a collaborator that never answers ends it with `none` (R243). -/
def frame {α : Type} (prim : State.Of E P → Option (BusAnswer α E) × State.Of E P) (s : State.Of E P) : Option (BusAnswer α E) × State.Of E P :=
  match csDrive .low s with
  | (none, s₁) => (none, s₁)
  | (some _, s₁) =>
    match prim s₁ with
    | (none, s₂) => (none, s₂)
    | (some r, s₂) =>
      match deasserts s.params.csOnXferError r with
      | false => (some r, s₂)
      | true =>
        match csDrive .high s₂ with
        | (none, s₃)   => (none, s₃)
        | (some _, s₃) => (some r, s₃)

/-- One framed transaction that writes `tx` and ends the command (R102, R135). -/
def writeTransaction (tx : List Byte) (s : State.Of E P) : State.Of E P :=
  match frame (busWrite tx) s with
  | (none, s')             => hang s'
  | (some (.ok _), s')     => respond { status := .ok } s'
  | (some (.busErr e), s') => raise .transport (.bus e) s'

/-- One sub-read of READ_RAW (R150): a framed 2-byte transfer whose second byte is the register's; byte 0 is discarded. -/
def readRegister (reg : RegId) (s : State.Of E P) : Option (BusAnswer Byte E) × State.Of E P :=
  match frame (busXfer [readAddress s.params reg, 0x00]) s with
  | (none, s')             => (none, s')
  | (some (.ok rx), s')    => (some (.ok rx[1]), s')
  | (some (.busErr e), s') => (some (.busErr e), s')

/-- `READ_RAW()` (R150): RTD_MSB, then RTD_LSB; the first failure ends it (R151). -/
def readRaw (s : State.Of E P) : Option (BusAnswer RawSample E) × State.Of E P :=
  match readRegister .rtdMsb s with
  | (none, s₁)             => (none, s₁)
  | (some (.busErr e), s₁) => (some (.busErr e), s₁)
  | (some (.ok msb), s₁)   =>
    match readRegister .rtdLsb s₁ with
    | (none, s₂)             => (none, s₂)
    | (some (.busErr e), s₂) => (some (.busErr e), s₂)
    | (some (.ok lsb), s₂)   => (some (.ok (composeRaw msb lsb)), s₂)

end Sys2Proof.Machine
end

