-- ==== Sys2Proof/Machine/Converter.lean ====
section
/-! DEFINITION. The fixed-point converter: CONV and its steps, and the commands CONVERT and RDCONV (42_conversion.md). -/

namespace Sys2Proof.Machine

variable {E P : Type}

/-- The ratio, `raw[15:1]` (R161): the chip's fault flag is discarded. -/
def ratio (raw : RawSample) : BitVec 15 := raw.extractLsb' 1 15

/-- The exact product `zext_32(ratio) * cal`, up to 47 bits (R162). -/
def exactProduct (raw : RawSample) (cal : Calibration) : Nat := (ratio raw).toNat * cal.toNat

/-- The 32-bit product (R162): `none` is Ovf, under FAULT only; under WRAP it is taken mod 2^32. -/
def scaledProduct (policy : OvfPolicy) (raw : RawSample) (cal : Calibration) : Option (BitVec 32) :=
  if exactProduct raw cal < 2 ^ 32 then some (BitVec.ofNat 32 (exactProduct raw cal))
  else match policy with
    | .fault => none
    | .wrap  => some (BitVec.ofNat 32 (exactProduct raw cal))

/-- The resistance: a logical right shift by 15 (R163), then the low 16 bits (R164; the narrowing is general knowledge G2, log 10). -/
def ohmsOfProduct (p : BitVec 32) : Ohms := (p >>> 15).truncate 16

/-- What CONV answers (R166). -/
inductive ConvResult where
  | ok (ohms : Ohms) (t : Temperature)
  | ovf
  | range (q : Ohms)
  deriving DecidableEq, Repr

/-- `CONV(raw, cal)` under the parameters (R166). -/
def conv (p : Params) (raw : RawSample) (cal : Calibration) : ConvResult :=
  match scaledProduct p.ovfPolicy raw cal with
  | none => .ovf
  | some prod =>
    match Lut.lookup p.lut (ohmsOfProduct prod) with
    | none   => .range (ohmsOfProduct prod)
    | some t => .ok (ohmsOfProduct prod) t

/-- CONVERT's response to the conversion (R160). -/
def convertResponse : ConvResult → Response E P
  | .ok ohms t => { status := .ok, d16 := ohms, d32 := t }
  | .ovf       => { status := .mulOvf }
  | .range _   => { status := .lutRange }

/-- RDCONV's response to the conversion (R170): the temperature only. -/
def rdconvResponse : ConvResult → Response E P
  | .ok _ t  => { status := .ok, d32 := t }
  | .ovf     => { status := .mulOvf }
  | .range _ => { status := .lutRange }

/-- CONVERT (R160): no event. -/
def execConvert (raw : RawSample) (s : State.Of E P) : Host.Outcome (State.Of E P) Fault Refusal :=
  .next (requireInit (fun s => respond (convertResponse (conv s.params raw s.cal)) s) s)

/-- The pseudocode of RDCONV (R170). -/
def readAndConvert (s : State.Of E P) : State.Of E P :=
  match readRaw s with
  | (none, s')             => hang s'
  | (some (.ok raw), s')   => respond (rdconvResponse (conv s'.params raw s'.cal)) s'
  | (some (.busErr e), s') => raise .transport (.bus e) s'

/-- RDCONV (R170). -/
def execRdconv (s : State.Of E P) : Host.Outcome (State.Of E P) Fault Refusal :=
  .next (requireInit readAndConvert s)

end Sys2Proof.Machine
end

