-- ==== Sys2Proof/Machine/Driver.lean ====
section
/-! DEFINITION. The driver operations INIT, CONFIG, SETCAL, ISRDY and RDRAW (41_driver_ops.md). -/

namespace Sys2Proof.Machine

variable {E P : Type}

/-- The default calibration, 400.00 Ω (R6, R130). -/
def defaultCal : Calibration := 40000

/-- The pseudocode of INIT (R130), in either LIFE state (R131). -/
def construct (s : State.Of E P) : State.Of E P :=
  match csDrive .high s with
  | (none, s')             => hang s'
  | (some (.ok _), s')     => respond { status := .ok } { s' with cal := defaultCal, life := .ready }
  | (some (.pinErr p), s') => raise .pin (.pin p) { s' with life := .uninit }

/-- INIT (R130). -/
def execInit (s : State.Of E P) : Host.Outcome (State.Of E P) Fault Refusal :=
  .next (construct s)

/-- CONFIG (R135): the configuration word, written to the CONFIG register in one WRITE-shaped transaction. -/
def execConfig (vbias mode oneshot : Bool) (wiring : Wiring) (filter : Filter) (s : State.Of E P) : Host.Outcome (State.Of E P) Fault Refusal :=
  .next (requireInit (writeTransaction [writeAddress s.params .config, cfgWord vbias mode oneshot wiring filter]) s)

/-- SETCAL (R140). -/
def execSetcal (cal : Calibration) (s : State.Of E P) : Host.Outcome (State.Of E P) Fault Refusal :=
  .next (requireInit (fun s => respond { status := .ok } { s with cal := cal }) s)

/-- The pseudocode of ISRDY (R145). -/
def sampleReady (s : State.Of E P) : State.Of E P :=
  match drdyRead s with
  | (none, s')   => hang s'
  | (some a, s') => respond { status := .ok, d32 := (readyBit a).zeroExtend 32 } s'

/-- ISRDY (R145). -/
def execIsrdy (s : State.Of E P) : Host.Outcome (State.Of E P) Fault Refusal :=
  .next (requireInit sampleReady s)

/-- The pseudocode of RDRAW (R150). -/
def reportRaw (s : State.Of E P) : State.Of E P :=
  match readRaw s with
  | (none, s')             => hang s'
  | (some (.ok raw), s')   => respond { status := .ok, d16 := raw } s'
  | (some (.busErr e), s') => raise .transport (.bus e) s'

/-- RDRAW (R150). -/
def execRdraw (s : State.Of E P) : Host.Outcome (State.Of E P) Fault Refusal :=
  .next (requireInit reportRaw s)

end Sys2Proof.Machine
end

