-- ==== Sys2Proof/Machine/Framer.lean ====
section
/-! DEFINITION. The bus transaction framer's commands ENCADDR, WRITE and READN (40_bus_framer.md). -/

namespace Sys2Proof.Machine

variable {E P : Type}

/-- ENCADDR (R101): the address byte; no event, legal in either LIFE state. -/
def execEncaddr (reg : RegId) (dir : Dir) (s : State.Of E P) : Host.Outcome (State.Of E P) Fault Refusal :=
  .next (respond { status := .ok, d32 := (addressByte s.params reg dir).zeroExtend 32 } s)

/-- WRITE (R102, R103). -/
def execWrite (reg : RegId) (val : Byte) (s : State.Of E P) : Host.Outcome (State.Of E P) Fault Refusal :=
  .next (requireInit (writeTransaction [writeAddress s.params reg, val]) s)

/-- READN's transaction and response (R110, R113). -/
def readTransaction (reg : RegId) (n : Fin 16) (s : State.Of E P) : State.Of E P :=
  match frame (busXfer (readnTx s.params reg n)) s with
  | (none, s')             => hang s'
  | (some (.ok rx), s')    => respond { status := .ok, len := n, buf := receivedBuf n rx } s'
  | (some (.busErr e), s') => raise .transport (.bus e) s'

/-- READN (R110). The decoder never gives n = 0; a term with it gets the status of R81, before the NOT_INIT check (R210, log 13). -/
def execReadn (reg : RegId) (n : Fin 16) (s : State.Of E P) : Host.Outcome (State.Of E P) Fault Refusal :=
  .next (if n = 0 then raise .illegal .none s else requireInit (readTransaction reg n) s)

end Sys2Proof.Machine
end

