-- ==== Sys2Proof/Machine/Dispatch.lean ====
section
/-! DEFINITION. One arm per command: each calls its meaning (30_encoding.md R71). -/

namespace Sys2Proof.Machine

/-- The effect of one accepted command, in the order of the opcode map (R71). -/
def exec (i : Instr) (s : State) : Host.Outcome State Fault Refusal :=
  match i with
  | .encaddr reg dir => Sys2Proof.Machine.execEncaddr reg dir s
  | .write reg val => Sys2Proof.Machine.execWrite reg val s
  | .readn reg n => Sys2Proof.Machine.execReadn reg n s
  | .init => Sys2Proof.Machine.execInit s
  | .config vbias mode oneshot wiring filter => Sys2Proof.Machine.execConfig vbias mode oneshot wiring filter s
  | .setcal cal => Sys2Proof.Machine.execSetcal cal s
  | .isrdy => Sys2Proof.Machine.execIsrdy s
  | .rdraw => Sys2Proof.Machine.execRdraw s
  | .rdconv => Sys2Proof.Machine.execRdconv s
  | .convert raw => Sys2Proof.Machine.execConvert raw s

end Sys2Proof.Machine
end

