-- ==== Sys2Proof/Machine/Sequencer.lean ====
section
/-! DEFINITION. Accepting one command and running it: the illegal check of 30_encoding.md R81 first (60_exceptions.md R210), then the command, by the function `run` that gives commands their effect. -/

namespace Sys2Proof.Machine

variable {E P : Type}

/-- Run the command `c`, already accepted: an illegal encoding is answered with E_ILLEGAL, no event and no other change (R81, R203). -/
def runCommand (run : Instr → State.Of E P → Host.Outcome (State.Of E P) Fault Refusal) (c : Command) (s : State.Of E P) :
    Host.Outcome (State.Of E P) Fault Refusal :=
  match decode c with
  | .ok i    => run i s
  | .error _ => .next (raise .illegal .none s)

/-- Present the command whose table bits are `w` at the head of the port of an IDLE block, so that the next step accepts it (log 1, log 19). -/
def presentTableWord (s : State.Of E P) (nbits w : Nat) : State.Of E P :=
  { s with phase := .idle, commands := commandOfTableWord nbits w :: s.commands }

/-- One step: an IDLE block accepts and runs the presented command; with none presented it waits (log 17); a BUSY block waits for a collaborator that never answers and accepts nothing (R26, R243). -/
def nextCommand (run : Instr → State.Of E P → Host.Outcome (State.Of E P) Fault Refusal) (s : State.Of E P) :
    Host.Outcome (State.Of E P) Fault Refusal :=
  match s.phase with
  | .busy => .next s
  | .idle =>
    match s.commands with
    | []        => .next s
    | c :: rest => runCommand run c (accept rest s)

/-- The effect of one accepted command in the block of any payload types `E` and `P` (R6). It calls the same meanings as exec, which is this function at the payload types of the host's machine. -/
def execAt (i : Instr) (s : State.Of E P) : Host.Outcome (State.Of E P) Fault Refusal :=
  match i with
  | .encaddr reg dir                         => execEncaddr reg dir s
  | .write reg val                           => execWrite reg val s
  | .readn reg n                             => execReadn reg n s
  | .init                                    => execInit s
  | .config vbias mode oneshot wiring filter => execConfig vbias mode oneshot wiring filter s
  | .setcal cal                              => execSetcal cal s
  | .isrdy                                   => execIsrdy s
  | .rdraw                                   => execRdraw s
  | .rdconv                                  => execRdconv s
  | .convert raw                             => execConvert raw s

/-- One step of the block of any payload types `E` and `P` (R6, R26). -/
def stepAt (s : State.Of E P) : Host.Outcome (State.Of E P) Fault Refusal := nextCommand execAt s

end Sys2Proof.Machine
end

