-- ==== Sys2Proof/Machine/Step.lean ====
section
/-! DEFINITION. The machine's step and the host's placing of an instruction; both only call Machine/Sequencer.lean. -/

namespace Sys2Proof.Machine

/-- One step of the block (10_state.md R26). -/
def step (s : State) : Host.Outcome State Fault Refusal := nextCommand exec s

/-- The state with an instruction placed where step takes its next one: at the head of the command port of an IDLE block. -/
def State.withFetchWord (s : State) (nbits w : Nat) : State := presentTableWord s nbits w

end Sys2Proof.Machine
end

