-- ==== Sys2Proof/Machine/Assembler.lean ====
section
/-! DEFINITION. The assembly syntax (30_encoding.md R82) and the pseudo-instructions (R83): from one line of text to the command it encodes. The block never sees this text; it is the host's notation for command words. -/

namespace Sys2Proof.Machine

/-- Cut a text at its commas (R82: "operands separated by commas"). -/
def splitCommas : List Char → List (List Char)
  | [] => [[]]
  | c :: cs =>
    match splitCommas cs with
    | []      => [[c]]
    | w :: ws => if c = ',' then [] :: w :: ws else (c :: w) :: ws

/-- A text without the blanks at its ends. -/
def trimBlanks (cs : List Char) : List Char :=
  ((cs.dropWhile (· = ' ')).reverse.dropWhile (· = ' ')).reverse

/-- The value of one digit, in a base of at most 16. -/
def digitValue (base : Nat) (c : Char) : Option Nat :=
  match "0123456789abcdef".toList.idxOf? c.toLower with
  | none   => none
  | some d => if d < base then some d else none

/-- A non-empty run of digits, most significant first, added to the value read so far. -/
def digitsValue (base acc : Nat) : List Char → Option Nat
  | []      => none
  | [c]     => (digitValue base c).map (acc * base + ·)
  | c :: cs =>
    match digitValue base c with
    | none   => none
    | some d => digitsValue base (acc * base + d) cs

/-- An immediate, "decimal or `0x` hexadecimal" (R82). -/
def immediate : List Char → Option Nat
  | '0' :: 'x' :: cs => digitsValue 16 0 cs
  | cs               => digitsValue 10 0 cs

/-- An immediate below `2^bits`. -/
def immediateBits (bits : Nat) (cs : List Char) : Option (BitVec bits) :=
  match immediate cs with
  | none   => none
  | some v => if v < 2 ^ bits then some (BitVec.ofNat bits v) else none

/-- The register names (R50). -/
def registerNames : List (String × RegId) :=
  [("CONFIG", .config), ("RTD_MSB", .rtdMsb), ("RTD_LSB", .rtdLsb),
   ("HIGH_FAULT_MSB", .highFaultMsb), ("HIGH_FAULT_LSB", .highFaultLsb),
   ("LOW_FAULT_MSB", .lowFaultMsb), ("LOW_FAULT_LSB", .lowFaultLsb),
   ("FAULT_STATUS", .faultStatus)]

/-- What a text stands for in a list of spellings. -/
def spelled {α : Type} (names : List (String × α)) (cs : List Char) : Option α :=
  (names.find? fun e => e.1.toList == cs).map Prod.snd

/-- `<reg>`: "a register name of 20_memory.md rule R50 or its id 0..7" (R82). -/
def registerOperand (cs : List Char) : Option RegId :=
  match spelled registerNames cs with
  | some r => some r
  | none   => (immediateBits 3 cs).map RegId.ofBits

/-- `<n>` with n in 1..15 (R82). -/
def countOperand (cs : List Char) : Option (Fin 16) :=
  match immediateBits 4 cs with
  | none   => none
  | some n => if n = 0 then none else some n.toFin

/-- Pseudo-instruction READ reg (R83): a single-register read. -/
def pseudoRead (reg : RegId) : Instr := .readn reg 2

/-- Pseudo-instruction READPAIR reg (R83): two consecutive registers in one transaction. -/
def pseudoReadPair (reg : RegId) : Instr := .readn reg 3

/-- `CFGBYTE <imm8>` (R83): CONFIG with CMD[7:0] = imm8, legal only when `imm8 & 0x0E = 0`. -/
def pseudoCfgByte (imm : Byte) : Option Instr :=
  if imm &&& 0x0E = 0 then some (configOf (imm.zeroExtend 16)) else none

/-- The command of a line's mnemonic and its operands (R82, R83). -/
def instrOfOperands (mnemonic : List Char) (operands : List (List Char)) : Option Instr :=
  let named (m : String) : Bool := m.toList == mnemonic
  match operands with
  | [] =>
    if named "INIT" then some .init
    else if named "ISRDY" then some .isrdy
    else if named "RDRAW" then some .rdraw
    else if named "RDCONV" then some .rdconv
    else none
  | [a] =>
    if named "SETCAL" then (immediateBits 32 a).map .setcal
    else if named "CONVERT" then (immediateBits 16 a).map .convert
    else if named "READ" then (registerOperand a).map pseudoRead
    else if named "READPAIR" then (registerOperand a).map pseudoReadPair
    else if named "CFGBYTE" then
      match immediateBits 8 a with
      | none     => none
      | some imm => pseudoCfgByte imm
    else none
  | [a, b] =>
    match registerOperand a with
    | none => none
    | some reg =>
      if named "ENCADDR" then (spelled [("R", Dir.read), ("W", Dir.write)] b).map (.encaddr reg)
      else if named "WRITE" then (immediateBits 8 b).map (.write reg)
      else if named "READN" then (countOperand b).map (.readn reg)
      else none
  | [v, m, o, w, f] =>
    if named "CONFIG" then
      match spelled [("vbias=0", false), ("vbias=1", true)] v,
            spelled [("mode=0", false), ("mode=1", true)] m,
            spelled [("oneshot=0", false), ("oneshot=1", true)] o,
            spelled [("wiring=W24", Wiring.twoOrFourWire), ("wiring=W3", Wiring.threeWire)] w,
            spelled [("filter=F60", Filter.hz60), ("filter=F50", Filter.hz50)] f with
      | some v, some m, some o, some w, some f => some (.config v m o w f)
      | _, _, _, _, _ => none
    else none
  | _ => none

/-- The operands of a line behind its mnemonic: none when nothing but blanks is there. -/
def operandsOf (cs : List Char) : List (List Char) :=
  match trimBlanks cs with
  | []  => []
  | cs' => (splitCommas cs').map trimBlanks

/-- The command that a line of assembly names: "mnemonic first" (R82). -/
def parseLine (line : String) : Option Instr :=
  let cs := trimBlanks line.toList
  instrOfOperands (cs.takeWhile (· ≠ ' ')) (operandsOf (cs.dropWhile (· ≠ ' ')))

/-- The command words that a line of assembly encodes (R82). -/
def assemble (line : String) : Option Command := (parseLine line).map encode

end Sys2Proof.Machine
end

