-- ==== Sys2Proof/Safety.lean ====
section
/-! DEFINITION. What a well-framed run is (40_bus_framer.md R105, 70_reset_and_hazards.md R247), the invariant of the states between steps, and the premises the spec lets a claim take: COLLAB_ANSWERS (R255), CHIP_LATCH (10_state.md R28), LUT_MONO (00_scope.md R6). -/

namespace Sys2Proof.Machine

variable {E P : Type}

/-- Where an event history stands in the framing of chip-select windows (R100, R105). -/
inductive Window where
  /-- No window is open. -/
  | closed
  /-- Chip-select was asserted; the window's one bus event comes next. -/
  | asserted
  /-- The bus event is done; the deassert comes next. -/
  | transferred
  /-- A bus error under HOLD ended the FRAME with chip-select requested LOW (R249). -/
  | held
  /-- A collaborator did not answer; no event follows (R243). -/
  | hung
  deriving DecidableEq, Repr

/-- Where a window stands after its bus event (R100). -/
def Window.afterBus {α : Type} (p : CsPolicy) : Option (BusAnswer α E) → Window
  | none             => .hung
  | some (.ok _)     => .transferred
  | some (.busErr _) => match p with
    | .deassert => .transferred
    | .hold     => .held

/-- The framing laws as an automaton (R105): the place after one more event, `none` where the event breaks them. Outside a window the block may begin one, drive chip-select HIGH (INIT) or read the ready pin (ISRDY). -/
def Window.next (p : CsPolicy) : Window → Event E P → Option Window
  | .closed,      .csDrive .low (some _)  => some .asserted
  | .closed,      .csDrive .high (some _) => some .closed
  | .closed,      .csDrive _ none         => some .hung
  | .closed,      .drdyRead (some _)      => some .closed
  | .closed,      .drdyRead none          => some .hung
  | .held,        .csDrive .low (some _)  => some .asserted
  | .held,        .csDrive .high (some _) => some .closed
  | .held,        .csDrive _ none         => some .hung
  | .held,        .drdyRead (some _)      => some .held
  | .held,        .drdyRead none          => some .hung
  | .asserted,    .busWrite _ a           => some (Window.afterBus p a)
  | .asserted,    .busXfer _ a            => some (Window.afterBus p a)
  | .transferred, .csDrive .high (some _) => some .closed
  | .transferred, .csDrive .high none     => some .hung
  | _, _                                  => none

/-- The place of a whole list of events, from a given place. -/
def Window.scan (p : CsPolicy) (w : Window) : List (Event E P) → Option Window
  | []      => some w
  | e :: es =>
    match Window.next p w e with
    | none    => none
    | some w' => Window.scan p w' es

/-- CS_REQ in an IDLE block agrees with the place of its history (R24): HIGH outside a window, or UNKNOWN before the first request while no instance exists; LOW, and an instance exists, in a window that HOLD left open. -/
def idleRequest (s : State.Of E P) : Window → Prop
  | .closed => s.csReq = .high ∨ (s.csReq = .unknown ∧ s.life = .uninit)
  | .held   => s.csReq = .low ∧ s.life = .ready
  | _       => False

/-- The invariant of the states between steps: the history obeys the framing laws; an IDLE block stands outside a transfer with CS_REQ as R24 says; a BUSY block waits for an answer and presents no response (R243). -/
def FramingInv (s : State.Of E P) : Prop :=
  ∃ w, Window.scan s.params.csOnXferError .closed s.history = some w ∧
    match s.phase with
    | .idle => idleRequest s w
    | .busy => w = .hung ∧ s.resp = none

/-- Each collaborator answers its next `n` events. -/
def AnswersNext (s : State.Of E P) (n : Nat) : Prop :=
  ∀ k, k < n → s.csAt k ≠ none ∧ s.writeAt k ≠ none ∧ s.xferAt k ≠ none ∧ s.drdyAt k ≠ none

/-- COLLAB_ANSWERS (R255): every collaborator eventually answers every event from now on. The statements take the part of it they need, AnswersNext of some number, which a finite script can show. -/
def CollabAnswers (s : State.Of E P) : Prop := ∀ n, AnswersNext s n

/-- CHIP_LATCH (R28, R57) for one 16-bit read: the bytes of the next two transfers are the halves of one latched sample. -/
def ChipLatch (s : State.Of E P) (sample : RawSample) : Prop :=
  ∃ rx₁ rx₂ : RxBytes, s.xferAt 0 = some (.ok rx₁) ∧ s.xferAt 1 = some (.ok rx₂) ∧
    rx₁[1] = sample.extractLsb' 8 8 ∧ rx₂[1] = sample.extractLsb' 0 8

/-- What the source settles about REG_BASE beside its width: RTD_MSB and RTD_LSB are consecutive (20_memory.md R50). A premise for claims about one n = 3 read of both; the block does not rely on it (R114). -/
def rtdRegistersAdjoin (p : Params) : Prop := (regBase p .rtdLsb).toNat = (regBase p .rtdMsb).toNat + 1

/-- LUT_MONO (R6, R177), increasing: strictly, over the inputs where the LUT answers `Some`. -/
def LutIncreasing (l : Lut) : Prop :=
  ∀ a b ta tb, a < b → Lut.lookup l a = some ta → Lut.lookup l b = some tb → ta < tb

/-- LUT_MONO (R6, R177), decreasing: the source does not say which direction the table has. -/
def LutDecreasing (l : Lut) : Prop :=
  ∀ a b ta tb, a < b → Lut.lookup l a = some ta → Lut.lookup l b = some tb → tb < ta

/-- The run that began in `s` has ended in `t` (R256): the block is IDLE, the host presents no further command, and the last command's response is presented, if the run had a command. -/
def runEnded (s t : State.Of E P) : Prop :=
  t.phase = .idle ∧ t.commands = [] ∧ (s.commands ≠ [] → ∃ r, t.resp = some r)

/-- Is an event a bus event? -/
def Event.isBus : Event E P → Bool
  | .csDrive _ _  => false
  | .busWrite _ _ => true
  | .busXfer _ _  => true
  | .drdyRead _   => false

/-- The transport error that a bus event answered with, if it did. -/
def Event.busErrorOf : Event E P → Option E
  | .csDrive _ _                   => none
  | .busWrite _ (some (.busErr e)) => some e
  | .busWrite _ (some (.ok _))     => none
  | .busWrite _ none               => none
  | .busXfer _ (some (.busErr e))  => some e
  | .busXfer _ (some (.ok _))      => none
  | .busXfer _ none                => none
  | .drdyRead _                    => none

/-- Is an event a read of the ready pin? -/
def Event.isDrdyRead : Event E P → Bool
  | .csDrive _ _  => false
  | .busWrite _ _ => false
  | .busXfer _ _  => false
  | .drdyRead _   => true

/-- Did an event get no answer (R243)? -/
def Event.unanswered : Event E P → Bool
  | .csDrive _ a  => a.isNone
  | .busWrite _ a => a.isNone
  | .busXfer _ a  => a.isNone
  | .drdyRead a   => a.isNone

/-- An event with the chip-select pin's answer erased: what R104 says does not depend on that answer. -/
def Event.eraseCsAnswer : Event E P → Event E P
  | .csDrive l _   => .csDrive l none
  | .busWrite tx a => .busWrite tx a
  | .busXfer tx a  => .busXfer tx a
  | .drdyRead a    => .drdyRead a

/-- The last request to the chip-select pin in a list of events, with its answer. -/
def lastDrive : List (Event E P) → Option (Level × Option (PinAnswer Unit P))
  | []      => none
  | e :: es =>
    match lastDrive es with
    | some d => some d
    | none   =>
      match e with
      | .csDrive l a  => some (l, a)
      | .busWrite _ _ => none
      | .busXfer _ _  => none
      | .drdyRead _   => none

/-- What the rows of R103 and R113 that end in `CsDrive(HIGH)` leave, apart from the bus port and the response: the three events, CS_REQ HIGH, the line as R25 says, and two answers of the pin taken. -/
def afterWindow (s : State.Of E P) (lo : PinAnswer Unit P) (bus : Event E P) (hi : Option (PinAnswer Unit P)) : State.Of E P :=
  { s with
    csReq   := .high
    csLine  := lineAfter .high (Config.lineDraw (s.csPort.asked + 2)) hi
    csPort  := s.csPort.skip 2
    history := s.history ++ [.csDrive .low (some lo), bus, .csDrive .high hi] }

/-- What the rows of R103 and R113 under HOLD leave after a bus error: two events and CS_REQ LOW. -/
def afterHeldWindow (s : State.Of E P) (lo : PinAnswer Unit P) (bus : Event E P) : State.Of E P :=
  { s with
    csReq   := .low
    csLine  := lineAfter .low (Config.lineDraw (s.csPort.asked + 1)) (some lo)
    csPort  := s.csPort.skip 1
    history := s.history ++ [.csDrive .low (some lo), bus] }

/-- The illegal encodings as R81 lists them, written from its own words and not from the decoder's masks. -/
def listedIllegal (c : Command) : Prop :=
  let op := (c.cmd.extractLsb' 12 4).toNat
  -- item 1
  op = 0x0 ∨ 0xB ≤ op ∨
  -- item 2
  ((op = 0x1 ∨ op = 0x2 ∨ op = 0x3) ∧ c.cmd.getLsbD 11 = true) ∨
  (op = 0x1 ∧ c.cmd.extractLsb' 1 7 ≠ 0) ∨
  (op = 0x3 ∧ c.cmd.extractLsb' 4 4 ≠ 0) ∨
  (op = 0x5 ∧ (c.cmd.extractLsb' 8 4 ≠ 0 ∨ c.cmd.extractLsb' 1 3 ≠ 0)) ∨
  ((op = 0x4 ∨ 0x6 ≤ op ∧ op ≤ 0xA) ∧ c.cmd.extractLsb' 0 12 ≠ 0) ∨
  -- item 3
  (op = 0x3 ∧ c.cmd.extractLsb' 0 4 = 0) ∨
  -- item 4
  (op = 0xA ∧ c.data.extractLsb' 16 16 ≠ 0)

/-! ### Payloads of other types (00_scope.md R6, 92_eei_decisions.md D31) -/

variable {E' P' : Type} (f : E → E') (g : P → P')

/-- A pin answer with its payload replaced. -/
def PinAnswer.mapPayload {α : Type} : PinAnswer α P → PinAnswer α P'
  | .ok a     => .ok a
  | .pinErr p => .pinErr (g p)

/-- A bus answer with its payload replaced. -/
def BusAnswer.mapPayload {α : Type} : BusAnswer α E → BusAnswer α E'
  | .ok a     => .ok a
  | .busErr e => .busErr (f e)

/-- An ERR field with its payload replaced. -/
def ErrPayload.mapPayload : ErrPayload E P → ErrPayload E' P'
  | .none  => .none
  | .bus e => .bus (f e)
  | .pin p => .pin (g p)

/-- A response with its payload replaced. -/
def Response.mapPayload (r : Response E P) : Response E' P' :=
  { status := r.status, d32 := r.d32, d16 := r.d16, len := r.len, buf := r.buf, err := r.err.mapPayload f g }

/-- An event with the payload of its answer replaced. -/
def Event.mapPayload : Event E P → Event E' P'
  | .csDrive l a   => .csDrive l (a.map (PinAnswer.mapPayload g))
  | .busWrite tx a => .busWrite tx (a.map (BusAnswer.mapPayload f))
  | .busXfer tx a  => .busXfer tx (a.map (BusAnswer.mapPayload f))
  | .drdyRead a    => .drdyRead (a.map (PinAnswer.mapPayload g))

/-- A port with its scripted answers replaced. -/
def Port.map {α β : Type} (h : α → β) (p : Port α) : Port β := { script := p.script.map h, asked := p.asked }

/-- A state with every payload that it holds replaced. -/
def State.Of.mapPayload (s : State.Of E P) : State.Of E' P' :=
  { cal       := s.cal
    life      := s.life
    csReq     := s.csReq
    phase     := s.phase
    csLine    := s.csLine
    commands  := s.commands
    resp      := s.resp.map (Response.mapPayload f g)
    csPort    := s.csPort.map (Option.map (PinAnswer.mapPayload g))
    writePort := s.writePort.map (Option.map (BusAnswer.mapPayload f))
    xferPort  := s.xferPort.map (Option.map (BusAnswer.mapPayload f))
    drdyPort  := s.drdyPort.map (Option.map (PinAnswer.mapPayload g))
    history   := s.history.map (Event.mapPayload f g)
    params    := s.params }

/-- The next `n` answers of each collaborator stand in its script, so none of them is a free draw. -/
def Scripted (s : State.Of E P) (n : Nat) : Prop :=
  n ≤ s.csPort.script.length ∧ n ≤ s.writePort.script.length ∧ n ≤ s.xferPort.script.length ∧ n ≤ s.drdyPort.script.length

end Sys2Proof.Machine
end

