-- ==== Sys2Proof/Certificates/Slice0/Obligations.lean ====
section
/-! DEFINITION. The statements for the provers, from the numbered rules of spec/. Each docstring names the rules; OBLIGATIONS.json holds the words. A statement about a command's result has as its conclusion that exec answers that next state, whole, so it states the command's frame as well: every field of State that is not named is unchanged. Three parts of such a state are the model's own and not the spec's: the draw that stands for the chip-select line after a failed drive (Config.lineDraw, log 6), the ports that count the answers taken (log 4), and the history that records them (log 12). -/

open Sys2Proof Sys2Proof.Machine

/-! ### Encodings -/

/-- Decoding an encoded command gives it back, every operand at every value (30_encoding.md R70 to R73). -/
def Obligations.DecodeOfEncodeIsTheInstruction : Prop :=
  ∀ i : Instr, i.wellFormed = true → decode (encode i) = .ok i

/-- Encoding a decoded word gives the same word back, and the same DATA where the command reads it, so every legal word has one meaning (R80, R81, D17). -/
def Obligations.EncodeOfDecodeIsTheWord : Prop :=
  ∀ (c : Command) (i : Instr), decode c = .ok i → i.wellFormed = true ∧ (encode i).cmd = c.cmd ∧
    (opcodeField c.cmd = 0x6 ∨ opcodeField c.cmd = 0xA → (encode i).data = c.data)

/-- A legal word matches the opcode table's row of its command and no other row (R71, R80; opcode_table.json). -/
def Obligations.LegalWordMatchesExactlyItsRow : Prop :=
  ∀ (c : Command) (i : Instr), decode c = .ok i →
    (rowOf i).covers c.cmd = true ∧ ∀ j : Instr, (rowOf j).covers c.cmd = true → rowOf j = rowOf i

/-- Exactly the encodings that R81 lists are illegal (R81, R203); each is answered with E_ILLEGAL, no event and no other change, whatever LIFE is; for every other command but SETCAL and CONVERT any DATA is legal and ignored (R81, D17). That acceptance takes the command off the port (log 1) and that E_ILLEGAL's response stands in place of the previous one (log 11) are the model's own choices. -/
def Obligations.ListedEncodingsAndNoOthersAreIllegal : Prop :=
  ∀ (c : Command) (rest : List Command) (s : State), s.phase = .idle → s.commands = c :: rest →
    (listedIllegal c → step s = .next { s with commands := rest, resp := some { status := .illegal } }) ∧
    (¬ listedIllegal c → ∃ i, decode c = .ok i ∧ i.wellFormed = true ∧
      (opcodeField c.cmd ≠ 0x6 → opcodeField c.cmd ≠ 0xA → ∀ d, decode { c with data := d } = .ok i))

/-- Words written out from the encodings of R70, R71 decode to their commands (a sanity statement). -/
def Obligations.WrittenOutWordsDecode : Prop :=
  decode { cmd := 0b0001001000000001, data := 0 } = .ok (.encaddr .rtdLsb .write) ∧
  decode { cmd := 0b0010011111111111, data := 5 } = .ok (.write .faultStatus 0xFF) ∧
  decode { cmd := 0b0011011100001111, data := 0 } = .ok (.readn .faultStatus 15) ∧
  decode { cmd := 0b0101000011010001, data := 0 } = .ok (.config true true false .threeWire .hz50) ∧
  decode { cmd := 0b0110000000000000, data := 43000 } = .ok (.setcal 43000) ∧
  decode { cmd := 0b1010000000000000, data := 0x2C00 } = .ok (.convert 0x2C00)

/-- R76: the three address laws hold for every register and every REG_BASE, with the base in bits 6:0 (R74, R75). -/
def Obligations.AddressBytesObeyTheLaws : Prop :=
  ∀ (p : Params) (r : RegId),
    (readAddress p r).extractLsb' 0 7 = regBase p r ∧ (writeAddress p r).extractLsb' 0 7 = regBase p r ∧
    readAddress p r &&& 0x80 = 0 ∧ writeAddress p r &&& 0x80 = 0x80 ∧ readAddress p r ||| 0x80 = writeAddress p r

/-- R77: the configuration word has each field in its bit and 0 in bits 3:1. -/
def Obligations.ConfigWordHasItsFieldsInPlace : Prop :=
  ∀ (v m o : Bool) (w : Wiring) (f : Filter),
    cfgWord v m o w f = (BitVec.ofBool v ++ BitVec.ofBool m ++ BitVec.ofBool o ++ BitVec.ofBool w.bit ++ 0#3 ++
      BitVec.ofBool f.bit : BitVec 8)

/-- R136: changing fields of the configuration word changes exactly their bits, and bits 3:1 stay 0 (R77). -/
def Obligations.ConfigWordFieldsAreIndependent : Prop :=
  ∀ (v m o v' m' o' : Bool) (w w' : Wiring) (f f' : Filter),
    cfgWord v m o w f ^^^ cfgWord v' m' o' w' f' =
      (BitVec.ofBool (v ^^ v') ++ BitVec.ofBool (m ^^ m') ++ BitVec.ofBool (o ^^ o') ++
        BitVec.ofBool (decide (w ≠ w')) ++ 0#3 ++ BitVec.ofBool (decide (f ≠ f')) : BitVec 8) ∧
    (cfgWord v m o w f).extractLsb' 1 3 = 0

/-- R83: CFGBYTE is legal exactly when `imm8 & 0x0E = 0` and then is a CONFIG whose word's low byte is imm8; READ and READPAIR are READN with 2 and 3. -/
def Obligations.PseudoInstructionsExpand : Prop :=
  (∀ imm : Byte, imm &&& 0x0E ≠ 0 → pseudoCfgByte imm = none) ∧
  (∀ imm : Byte, imm &&& 0x0E = 0 → ∃ v m o w f, pseudoCfgByte imm = some (.config v m o w f) ∧
    encodeWord (.config v m o w f) = 0x50#8 ++ imm ∧ cfgWord v m o w f = imm) ∧
  (∀ reg, encodeWord (pseudoRead reg) = 0x3#4 ++ 0#1 ++ reg.bits ++ 0x02#8) ∧
  (∀ reg, encodeWord (pseudoReadPair reg) = 0x3#4 ++ 0#1 ++ reg.bits ++ 0x03#8)

/-- Lines of assembly encode as the examples of the command rules say (R82; R101, R102, R110, R135, R140). -/
def Obligations.AssemblyLinesEncode : Prop :=
  assemble "ENCADDR RTD_LSB, W" = some { cmd := 0x1201, data := 0 } ∧
  assemble "WRITE CONFIG, 0xD1" = some { cmd := 0x20D1, data := 0 } ∧
  assemble "READN RTD_MSB, 2" = some { cmd := 0x3102, data := 0 } ∧
  assemble "CONFIG vbias=1, mode=1, oneshot=0, wiring=W3, filter=F50" = some { cmd := 0x50D1, data := 0 } ∧
  assemble "SETCAL 43000" = some { cmd := 0x6000, data := 0xA7F8 }

/-! ### The commands -/

/-- ENCADDR in either LIFE state: the base in D32[6:0], the direction in D32[7], nothing else, no event and no change of state (R101). -/
def Obligations.EncaddrAnswersTheAddressByte : Prop :=
  ∀ (reg : RegId) (dir : Dir) (s : State), ∃ a : BitVec 32,
    a.extractLsb' 0 7 = regBase s.params reg ∧ a.getLsbD 7 = dir.bit ∧ a.extractLsb' 8 24 = 0 ∧
    exec (.encaddr reg dir) s = .next { s with phase := .idle, resp := some { status := .ok, d32 := a } }

/-- R103: the three rows of WRITE's event sequence, with the response and everything else unchanged; the answers `lo` and `hi` of the pin are any. -/
def Obligations.WriteRunsOneFramedBusWrite : Prop :=
  ∀ (reg : RegId) (val : Byte) (s : State) (lo : PinAnswer Unit PinError), s.life = .ready → s.csAt 0 = some lo →
    (∀ hi, s.writeAt 0 = some (.ok ()) → s.csAt 1 = some hi →
      exec (.write reg val) s = .next
        { afterWindow s lo (.busWrite [writeAddress s.params reg, val] (some (.ok ()))) (some hi) with
          writePort := s.writePort.skip 1, phase := .idle, resp := some { status := .ok } }) ∧
    (∀ hi e, s.writeAt 0 = some (.busErr e) → s.params.csOnXferError = .deassert → s.csAt 1 = some hi →
      exec (.write reg val) s = .next
        { afterWindow s lo (.busWrite [writeAddress s.params reg, val] (some (.busErr e))) (some hi) with
          writePort := s.writePort.skip 1, phase := .idle, resp := some { status := .transport, err := .bus e } }) ∧
    (∀ e, s.writeAt 0 = some (.busErr e) → s.params.csOnXferError = .hold →
      exec (.write reg val) s = .next
        { afterHeldWindow s lo (.busWrite [writeAddress s.params reg, val] (some (.busErr e))) with
          writePort := s.writePort.skip 1, phase := .idle, resp := some { status := .transport, err := .bus e } })

/-- R113: the three rows of READN's event sequence, with the response and everything else unchanged. The transmit buffer is the read address and n−1 zero bytes (R111), the history shows the n received bytes, and BUF is those bytes and 0 beyond them (R112, R32). -/
def Obligations.ReadnRunsOneFramedTransfer : Prop :=
  ∀ (reg : RegId) (n : Fin 16) (s : State) (lo : PinAnswer Unit PinError), n ≠ 0 → s.life = .ready → s.csAt 0 = some lo →
    (∀ hi rx, s.xferAt 0 = some (.ok rx) → s.csAt 1 = some hi → ∃ buf : Vector Byte 15,
      (∀ k (h : k < 15), buf[k] = if k < n.val then rx[k] else 0) ∧
      exec (.readn reg n) s = .next
        { afterWindow s lo (.busXfer (readAddress s.params reg :: List.replicate (n.val - 1) 0x00)
            (some (.ok (rx.toList.take n.val)))) (some hi) with
          xferPort := s.xferPort.skip 1, phase := .idle, resp := some { status := .ok, len := n, buf := buf } }) ∧
    (∀ hi e, s.xferAt 0 = some (.busErr e) → s.params.csOnXferError = .deassert → s.csAt 1 = some hi →
      exec (.readn reg n) s = .next
        { afterWindow s lo (.busXfer (readAddress s.params reg :: List.replicate (n.val - 1) 0x00)
            (some (.busErr e))) (some hi) with
          xferPort := s.xferPort.skip 1, phase := .idle, resp := some { status := .transport, err := .bus e } }) ∧
    (∀ e, s.xferAt 0 = some (.busErr e) → s.params.csOnXferError = .hold →
      exec (.readn reg n) s = .next
        { afterHeldWindow s lo (.busXfer (readAddress s.params reg :: List.replicate (n.val - 1) 0x00)
            (some (.busErr e))) with
          xferPort := s.xferPort.skip 1, phase := .idle, resp := some { status := .transport, err := .bus e } })

/-- INIT when the pin answers Ok, in either LIFE state: one event, CAL 40000, READY, chip-select HIGH (R130, R131, R241). -/
def Obligations.InitConstructsAnInstance : Prop :=
  ∀ (s : State) (u : Unit), s.csAt 0 = some (.ok u) →
    exec .init s = .next
      { s with
        cal := 40000, life := .ready, csReq := .high, csLine := .high
        csPort := s.csPort.skip 1, history := s.history ++ [.csDrive .high (some (.ok u))]
        phase := .idle, resp := some { status := .ok } }

/-- INIT when the pin fails: E_PIN with the payload verbatim, no instance, CAL unchanged, CS_REQ HIGH all the same, the line a draw, which is the free value of log 6 (R130, R202, R24, R25, R37). -/
def Obligations.FailedInitLeavesNoInstance : Prop :=
  ∀ (s : State) (p : PinError), s.csAt 0 = some (.pinErr p) →
    exec .init s = .next
      { s with
        life := .uninit, csReq := .high, csLine := Config.lineDraw (s.csPort.asked + 1)
        csPort := s.csPort.skip 1, history := s.history ++ [.csDrive .high (some (.pinErr p))]
        phase := .idle, resp := some { status := .pin, err := .pin p } }

/-- CONFIG: the rows of R103 with the configuration register's write address and the low byte of the command word, all 32 field combinations (R135, R77, R79). -/
def Obligations.ConfigWritesTheConfigurationWord : Prop :=
  ∀ (v m o : Bool) (w : Wiring) (f : Filter) (s : State) (lo : PinAnswer Unit PinError), s.life = .ready → s.csAt 0 = some lo →
    let tx := [writeAddress s.params .config, (encodeWord (.config v m o w f)).extractLsb' 0 8]
    (∀ hi, s.writeAt 0 = some (.ok ()) → s.csAt 1 = some hi →
      exec (.config v m o w f) s = .next
        { afterWindow s lo (.busWrite tx (some (.ok ()))) (some hi) with
          writePort := s.writePort.skip 1, phase := .idle, resp := some { status := .ok } }) ∧
    (∀ hi e, s.writeAt 0 = some (.busErr e) → s.params.csOnXferError = .deassert → s.csAt 1 = some hi →
      exec (.config v m o w f) s = .next
        { afterWindow s lo (.busWrite tx (some (.busErr e))) (some hi) with
          writePort := s.writePort.skip 1, phase := .idle, resp := some { status := .transport, err := .bus e } }) ∧
    (∀ e, s.writeAt 0 = some (.busErr e) → s.params.csOnXferError = .hold →
      exec (.config v m o w f) s = .next
        { afterHeldWindow s lo (.busWrite tx (some (.busErr e))) with
          writePort := s.writePort.skip 1, phase := .idle, resp := some { status := .transport, err := .bus e } })

/-- SETCAL: every 32-bit value is accepted, no event, nothing but CAL changes (R140). -/
def Obligations.SetcalOverwritesTheCalibration : Prop :=
  ∀ (cal : Calibration) (s : State), s.life = .ready →
    exec (.setcal cal) s = .next { s with cal := cal, phase := .idle, resp := some { status := .ok } }

/-- ISRDY: one DrdyRead; D32 is 1 exactly when it answered LOW, and a pin error is absorbed (R145, R208). -/
def Obligations.IsrdySamplesTheReadyPinOnce : Prop :=
  ∀ (s : State) (a : PinAnswer Level PinError), s.life = .ready → s.drdyAt 0 = some a →
    exec .isrdy s = .next
      { s with
        drdyPort := s.drdyPort.skip 1, history := s.history ++ [.drdyRead (some a)]
        phase := .idle, resp := some { status := .ok, d32 := if a = .ok .low then 1 else 0 } }

/-- RDRAW when both transfers answer Ok: the six events of R152 and D16 = {msb, lsb}, the fault flag included (R150, R53, R29). -/
def Obligations.RdrawComposesTheSample : Prop :=
  ∀ (s : State) (c₀ c₁ c₂ c₃ : PinAnswer Unit PinError) (rx₁ rx₂ : RxBytes), s.life = .ready →
    s.csAt 0 = some c₀ → s.csAt 1 = some c₁ → s.csAt 2 = some c₂ → s.csAt 3 = some c₃ →
    s.xferAt 0 = some (.ok rx₁) → s.xferAt 1 = some (.ok rx₂) →
    exec .rdraw s = .next
      { s with
        csReq := .high, csLine := lineAfter .high (Config.lineDraw (s.csPort.asked + 4)) (some c₃)
        csPort := s.csPort.skip 4, xferPort := s.xferPort.skip 2
        history := s.history ++
          [.csDrive .low (some c₀), .busXfer [readAddress s.params .rtdMsb, 0x00] (some (.ok [rx₁[0], rx₁[1]])), .csDrive .high (some c₁),
           .csDrive .low (some c₂), .busXfer [readAddress s.params .rtdLsb, 0x00] (some (.ok [rx₂[0], rx₂[1]])), .csDrive .high (some c₃)]
        phase := .idle, resp := some { status := .ok, d16 := rx₁[1] ++ rx₂[1] } }

/-- When the RTD_MSB transfer fails, RDRAW and RDCONV make the events of that one FRAME only and report its error (R151, whose stop is the spec's own decision D10; R113). That the line's level after a failed drive, inside afterWindow and afterHeldWindow, is the free value Config.lineDraw is the model's own choice (log 6). -/
def Obligations.FailedMsbReadEndsRdrawAndRdconv : Prop :=
  ∀ (i : Instr) (s : State) (lo : PinAnswer Unit PinError) (e : BusError), i = .rdraw ∨ i = .rdconv →
    s.life = .ready → s.csAt 0 = some lo → s.xferAt 0 = some (.busErr e) →
    (∀ hi, s.params.csOnXferError = .deassert → s.csAt 1 = some hi →
      exec i s = .next
        { afterWindow s lo (.busXfer [readAddress s.params .rtdMsb, 0x00] (some (.busErr e))) (some hi) with
          xferPort := s.xferPort.skip 1, phase := .idle, resp := some { status := .transport, err := .bus e } }) ∧
    (s.params.csOnXferError = .hold →
      exec i s = .next
        { afterHeldWindow s lo (.busXfer [readAddress s.params .rtdMsb, 0x00] (some (.busErr e))) with
          xferPort := s.xferPort.skip 1, phase := .idle, resp := some { status := .transport, err := .bus e } })

/-- When the RTD_LSB transfer fails, RDRAW and RDCONV report that error and keep nothing of the first byte (R150, R27). -/
def Obligations.FailedLsbReadKeepsNothing : Prop :=
  ∀ (i : Instr) (s : State) (c₀ c₁ c₂ : PinAnswer Unit PinError) (rx : RxBytes) (e : BusError), i = .rdraw ∨ i = .rdconv →
    s.life = .ready → s.csAt 0 = some c₀ → s.csAt 1 = some c₁ → s.csAt 2 = some c₂ →
    s.xferAt 0 = some (.ok rx) → s.xferAt 1 = some (.busErr e) →
    let s₁ := afterWindow s c₀ (.busXfer [readAddress s.params .rtdMsb, 0x00] (some (.ok [rx[0], rx[1]]))) (some c₁)
    (∀ c₃, s.params.csOnXferError = .deassert → s.csAt 3 = some c₃ →
      exec i s = .next
        { afterWindow s₁ c₂ (.busXfer [readAddress s.params .rtdLsb, 0x00] (some (.busErr e))) (some c₃) with
          xferPort := s.xferPort.skip 2, phase := .idle, resp := some { status := .transport, err := .bus e } }) ∧
    (s.params.csOnXferError = .hold →
      exec i s = .next
        { afterHeldWindow s₁ c₂ (.busXfer [readAddress s.params .rtdLsb, 0x00] (some (.busErr e))) with
          xferPort := s.xferPort.skip 2, phase := .idle, resp := some { status := .transport, err := .bus e } })

/-- Under the premise CHIP_LATCH, RDRAW answers the latched sample (R28, R57, R150). -/
def Obligations.RdrawReturnsTheLatchedSample : Prop :=
  ∀ (s : State) (sample : RawSample), ChipLatch s sample → s.life = .ready →
    s.csAt 0 ≠ none → s.csAt 1 ≠ none → s.csAt 2 ≠ none → s.csAt 3 ≠ none →
    ∃ t, exec .rdraw s = .next t ∧ t.resp = some { status := .ok, d16 := sample }

/-- CONVERT: with `p = floor(raw/2) * CAL`, the resistance is `floor(p mod 2^32 / 2^15) mod 2^16` and the temperature the LUT's; overflow under FAULT and a missing entry end it; no event, nothing else changes (R160, R166, R161 to R165). That the narrowing to 16 bits is mod 2^16 is the spec's general knowledge G2 (log 10). -/
def Obligations.ConvertAppliesTheConversion : Prop :=
  ∀ (raw : RawSample) (s : State), s.life = .ready →
    let p := raw.toNat / 2 * s.cal.toNat
    let ohms : Ohms := BitVec.ofNat 16 (p % 2 ^ 32 / 2 ^ 15)
    (p < 2 ^ 32 ∨ s.params.ovfPolicy = .wrap →
      (∀ t, Lut.lookup s.params.lut ohms = some t →
        exec (.convert raw) s = .next { s with phase := .idle, resp := some { status := .ok, d16 := ohms, d32 := t } }) ∧
      (Lut.lookup s.params.lut ohms = none →
        exec (.convert raw) s = .next { s with phase := .idle, resp := some { status := .lutRange } })) ∧
    (2 ^ 32 ≤ p → s.params.ovfPolicy = .fault →
      exec (.convert raw) s = .next { s with phase := .idle, resp := some { status := .mulOvf } })

/-- RDCONV when both transfers answer Ok: the six events of RDRAW, then the conversion of {msb, lsb}; only the temperature is answered (R170, R150, R166; the narrowing to 16 bits: log 10). -/
def Obligations.RdconvReadsAndConverts : Prop :=
  ∀ (s : State) (c₀ c₁ c₂ c₃ : PinAnswer Unit PinError) (rx₁ rx₂ : RxBytes), s.life = .ready →
    s.csAt 0 = some c₀ → s.csAt 1 = some c₁ → s.csAt 2 = some c₂ → s.csAt 3 = some c₃ →
    s.xferAt 0 = some (.ok rx₁) → s.xferAt 1 = some (.ok rx₂) →
    let p := (rx₁[1] ++ rx₂[1] : BitVec 16).toNat / 2 * s.cal.toNat
    let ohms : Ohms := BitVec.ofNat 16 (p % 2 ^ 32 / 2 ^ 15)
    let ends (r : Response BusError PinError) : State :=
      { s with
        csReq := .high, csLine := lineAfter .high (Config.lineDraw (s.csPort.asked + 4)) (some c₃)
        csPort := s.csPort.skip 4, xferPort := s.xferPort.skip 2
        history := s.history ++
          [.csDrive .low (some c₀), .busXfer [readAddress s.params .rtdMsb, 0x00] (some (.ok [rx₁[0], rx₁[1]])), .csDrive .high (some c₁),
           .csDrive .low (some c₂), .busXfer [readAddress s.params .rtdLsb, 0x00] (some (.ok [rx₂[0], rx₂[1]])), .csDrive .high (some c₃)]
        phase := .idle, resp := some r }
    (p < 2 ^ 32 ∨ s.params.ovfPolicy = .wrap →
      (∀ t, Lut.lookup s.params.lut ohms = some t → exec .rdconv s = .next (ends { status := .ok, d32 := t })) ∧
      (Lut.lookup s.params.lut ohms = none → exec .rdconv s = .next (ends { status := .lutRange }))) ∧
    (2 ^ 32 ≤ p → s.params.ovfPolicy = .fault → exec .rdconv s = .next (ends { status := .mulOvf }))

/-! ### The conversion's arithmetic -/

/-- The chip's fault flag does not affect a conversion: two samples that agree above bit 0 convert alike (R161, R208). -/
def Obligations.FaultFlagDoesNotAffectConversion : Prop :=
  ∀ (p : Params) (raw raw' : RawSample) (cal : Calibration), raw.extractLsb' 1 15 = raw'.extractLsb' 1 15 →
    conv p raw cal = conv p raw' cal ∧
    ∀ s : State, ∃ t, exec (.convert raw) s = .next t ∧ exec (.convert raw') s = .next t

/-- No overflow is possible when `cal ≤ 131076`, and the bound is sharp; where none occurs OVF_POLICY does not matter (R162). -/
def Obligations.NoOverflowUpToTheBound : Prop :=
  (∀ (p : Params) (raw : RawSample) (cal : Calibration), cal.toNat ≤ 131076 →
    conv p raw cal ≠ .ovf ∧ conv { p with ovfPolicy := .wrap } raw cal = conv { p with ovfPolicy := .fault } raw cal) ∧
  (∀ (p : Params) (cal : Calibration), 131076 < cal.toNat → p.ovfPolicy = .fault → conv p 0xFFFE cal = .ovf)

/-- R176: without overflow or truncation the resistance is `floor(ratio × cal / 32768)`, and at full scale `cal − ceil(cal / 32768)`, 39998 for the default. -/
def Obligations.ResistanceIsTheExactQuotient : Prop :=
  (∀ (policy : OvfPolicy) (raw : RawSample) (cal : Calibration), raw.toNat / 2 * cal.toNat < 2 ^ 31 →
    ∃ prod, scaledProduct policy raw cal = some prod ∧
      (ohmsOfProduct prod).toNat = raw.toNat / 2 * cal.toNat / 32768) ∧
  (∀ (policy : OvfPolicy) (raw : RawSample) (cal : Calibration), raw.toNat / 2 = 32767 → 1 ≤ cal.toNat → cal.toNat ≤ 65538 →
    ∃ prod, scaledProduct policy raw cal = some prod ∧
      (ohmsOfProduct prod).toNat = cal.toNat - (cal.toNat + 32767) / 32768) ∧
  (∀ policy : OvfPolicy, ∃ prod, scaledProduct policy 0xFFFE 40000 = some prod ∧ (ohmsOfProduct prod).toNat = 39998)

/-- R177: for a calibration up to 65538 the resistance is non-decreasing in the sample, and under LUT_MONO the temperature is monotonic in the LUT's direction; above that bound monotonicity can fail. That last clause holds because the narrowing to 16 bits truncates, which is the spec's general knowledge G2 (R164; log 10, PRESUMED). -/
def Obligations.ConversionIsMonotonicUpToTheBound : Prop :=
  (∀ (p : Params) (raw raw' : RawSample) (cal : Calibration) (q q' : Ohms) (t t' : Temperature),
    cal.toNat ≤ 65538 → raw ≤ raw' → conv p raw cal = .ok q t → conv p raw' cal = .ok q' t' →
    q ≤ q' ∧ (LutIncreasing p.lut → t ≤ t') ∧ (LutDecreasing p.lut → t' ≤ t)) ∧
  (∀ (policy : OvfPolicy) (raw raw' : RawSample) (cal : Calibration), cal.toNat ≤ 65538 → raw ≤ raw' →
    ∃ x x', scaledProduct policy raw cal = some x ∧ scaledProduct policy raw' cal = some x' ∧
      ohmsOfProduct x ≤ ohmsOfProduct x') ∧
  (∃ (raw raw' : RawSample) (cal : Calibration) (x x' : BitVec 32), 65538 < cal.toNat ∧ raw < raw' ∧
    scaledProduct .fault raw cal = some x ∧ scaledProduct .fault raw' cal = some x' ∧
    ohmsOfProduct x' < ohmsOfProduct x)

/-- R178: the conversion reads CAL and the LUT and nothing else of the state (beside the fixed OVF_POLICY): two CONVERTs of one sample in READY states that agree on them answer alike, and CONVERT writes nothing but its response. -/
def Obligations.ConvertDependsOnCalAndLutOnly : Prop :=
  ∀ (raw : RawSample) (s s' : State), s.life = .ready → s'.life = .ready → s.cal = s'.cal →
    s.params.lut = s'.params.lut → s.params.ovfPolicy = s'.params.ovfPolicy →
    ∃ r : Response BusError PinError, exec (.convert raw) s = .next { s with phase := .idle, resp := some r } ∧
      exec (.convert raw) s' = .next { s' with phase := .idle, resp := some r }

/-- A SETCAL is seen by the CONVERT behind it (R252, R140, R63): two steps, and the second uses the new value. -/
def Obligations.ConvertSeesThePrecedingSetcal : Prop :=
  ∀ (s : State) (cal : Calibration) (raw : RawSample) (rest : List Command) (t : Temperature),
    s.phase = .idle → s.life = .ready → s.commands = encode (.setcal cal) :: encode (.convert raw) :: rest →
    raw.toNat / 2 * cal.toNat < 2 ^ 31 →
    Lut.lookup s.params.lut (BitVec.ofNat 16 (raw.toNat / 2 * cal.toNat / 2 ^ 15)) = some t →
    Host.Core.run core 2 s = .next
      { s with
        cal := cal, commands := rest
        resp := some { status := .ok, d16 := BitVec.ofNat 16 (raw.toNat / 2 * cal.toNat / 2 ^ 15), d32 := t } }

/-! ### Errors -/

/-- R205: without an instance every command except INIT and ENCADDR answers E_NOT_INIT with no event and no change of state. -/
def Obligations.CommandsNeedAnInstance : Prop :=
  ∀ (i : Instr) (s : State), i.wellFormed = true → i ≠ .init → (∀ reg dir, i ≠ .encaddr reg dir) → s.life = .uninit →
    exec i s = .next { s with phase := .idle, resp := some { status := .notInit } }

/-- Which command raises which status with which payload, and that an error's other fields are 0 (R200, R201, R202, R32). -/
def Obligations.StatusesComeFromTheirCommands : Prop :=
  ∀ (i : Instr) (s t : State) (r : Response BusError PinError), i.wellFormed = true → exec i s = .next t → t.phase = .idle → t.resp = some r →
    (r.status = .transport → ((∃ a b, i = .write a b) ∨ (∃ a b, i = .readn a b) ∨ (∃ a b c d e, i = .config a b c d e) ∨
      i = .rdraw ∨ i = .rdconv) ∧ ∃ e, r = { status := .transport, err := .bus e }) ∧
    (r.status = .pin → i = .init ∧ ∃ p, r = { status := .pin, err := .pin p }) ∧
    r.status ≠ .illegal ∧
    (r.status = .notInit → s.life = .uninit ∧ i ≠ .init ∧ (∀ a b, i ≠ .encaddr a b) ∧ r = { status := .notInit }) ∧
    (r.status = .mulOvf → ((∃ a, i = .convert a) ∨ i = .rdconv) ∧ r = { status := .mulOvf }) ∧
    (r.status = .lutRange → ((∃ a, i = .convert a) ∨ i = .rdconv) ∧ r = { status := .lutRange }) ∧
    (r.status = .ok → r.err = .none)

/-- A reported transport error is the payload that a bus event of that same command answered with (R201, R215). -/
def Obligations.TransportErrorsPassOnVerbatim : Prop :=
  ∀ (i : Instr) (s t : State) (r : Response BusError PinError) (e : BusError), exec i s = .next t → t.phase = .idle → t.resp = some r →
    r.err = .bus e → ∃ pre ev post, t.history = s.history ++ (pre ++ ev :: post) ∧ ev.busErrorOf = some e

/-- R206 and R207: when RDCONV ends in E_MUL_OVF or E_LUT_RANGE, all six events of its two reads have happened, both transfers answered Ok (R210). -/
def Obligations.ConversionErrorsFollowBothReads : Prop :=
  ∀ (s t : State) (r : Response BusError PinError), exec .rdconv s = .next t → t.phase = .idle → t.resp = some r →
    r.status = .mulOvf ∨ r.status = .lutRange →
    ∃ c₀ c₁ c₂ c₃ b₁ b₂, t.history = s.history ++
      [.csDrive .low (some c₀), .busXfer [readAddress s.params .rtdMsb, 0x00] (some (.ok b₁)), .csDrive .high (some c₁),
       .csDrive .low (some c₂), .busXfer [readAddress s.params .rtdLsb, 0x00] (some (.ok b₂)), .csDrive .high (some c₃)]

/-- R104: inside transactions pin errors are absorbed, and FRAME goes on as if the pin had answered Ok: for every command but INIT, two states that differ only in how the chip-select pin answers its next four events (each with some answer) make the same events with the same bytes and the same other answers, present the same response, and end in states that agree on everything but that pin's port, its line and its answers in the history (log 12). R104's last sentence, on the line's level, is in ChipSelectFollowsTheLastRequest. -/
def Obligations.PinErrorsInTransactionsAreAbsorbed : Prop :=
  ∀ (i : Instr) (s : State) (q : Port (Option (PinAnswer Unit PinError))), i ≠ .init → (∀ k, k < 4 → s.csAt k ≠ none) →
    (∀ k, k < 4 → ({ s with csPort := q } : State).csAt k ≠ none) →
    ∃ t t' es es', exec i s = .next t ∧ exec i { s with csPort := q } = .next t' ∧
      t.history = s.history ++ es ∧ t'.history = s.history ++ es' ∧
      es.map Event.eraseCsAnswer = es'.map Event.eraseCsAnswer ∧
      { t' with csPort := t.csPort, csLine := t.csLine, history := t.history } = t

/-! ### Framing and ordering -/

/-- Every step keeps the framing invariant (R105, R247, R24): windows hold exactly one bus event each and never interleave, and CS_REQ agrees with them. -/
def Obligations.StepKeepsTheFramingInvariant : Prop :=
  ∀ s t : State, FramingInv s → step s = .next t → FramingInv t

/-- The framing invariant holds at power-on (R37, R240). -/
def Obligations.ResetMeetsTheFramingInvariant : Prop := FramingInv State.reset

/-- In a READY, IDLE state of the invariant, CS_REQ is HIGH unless HOLD is selected and the last transaction ended in a bus error, with nothing but ready-pin reads since (R24, R249). -/
def Obligations.ReadyIdleBlockRequestsHighUnlessHeld : Prop :=
  ∀ s : State, FramingInv s → s.phase = .idle → s.life = .ready → s.csReq ≠ .high →
    s.csReq = .low ∧ s.params.csOnXferError = .hold ∧
    ∃ pre e post, s.history = pre ++ e :: post ∧ e.busErrorOf.isSome = true ∧ ∀ x ∈ post, x.isDrdyRead = true

/-- A step only appends to the event history (R60), and a bus error is never followed by a second bus event of the same command (R105 law 4, R58). -/
def Obligations.BusErrorEndsTheCommandsBusActivity : Prop :=
  ∀ s t : State, step s = .next t → ∃ es, t.history = s.history ++ es ∧
    ∀ pre e post, es = pre ++ e :: post → e.busErrorOf.isSome = true → ∀ x ∈ post, x.isBus = false

/-- INIT, SETCAL, ISRDY, ENCADDR and CONVERT make no bus access (R56). -/
def Obligations.SomeCommandsMakeNoBusAccess : Prop :=
  ∀ (i : Instr) (s t : State), i = .init ∨ (∃ c, i = .setcal c) ∨ i = .isrdy ∨ (∃ a b, i = .encaddr a b) ∨ (∃ r, i = .convert r) →
    exec i s = .next t →
    t.writePort = s.writePort ∧ t.xferPort = s.xferPort ∧ ∃ es, t.history = s.history ++ es ∧ ∀ e ∈ es, e.isBus = false

/-- CS_REQ is the level of the command's last request, and so is the line when that request answered Ok; a command that makes no request leaves both (R24, R25). -/
def Obligations.ChipSelectFollowsTheLastRequest : Prop :=
  ∀ s t : State, step s = .next t → ∃ es, t.history = s.history ++ es ∧
    (lastDrive es = none → t.csReq = s.csReq ∧ t.csLine = s.csLine) ∧
    ∀ l a, lastDrive es = some (l, a) → t.csReq = l.request ∧
      (∀ u, a = some (.ok u) → t.csLine = l) ∧ (∀ p, a = some (.pinErr p) → ∃ k, t.csLine = Config.lineDraw k)

/-- CAL is written only by SETCAL and INIT, LIFE only by INIT, and no command changes the parameters or the command port (R22, R23, R6). -/
def Obligations.OnlyTheirWritersChangeCalAndLife : Prop :=
  ∀ (i : Instr) (s t : State), exec i s = .next t →
    (t.cal ≠ s.cal → (i = .init ∧ t.cal = 40000) ∨ i = .setcal t.cal) ∧
    (t.life ≠ s.life → i = .init) ∧ t.params = s.params ∧ t.commands = s.commands

/-! ### The sequencer -/

/-- A step of an IDLE block runs the decoded command at its port, with the command taken off the port, PHASE BUSY and no response presented (R26, R31; that the previous response goes away here is log 11). -/
def Obligations.StepRunsTheDecodedCommand : Prop :=
  ∀ (s : State) (c : Command) (rest : List Command) (i : Instr), s.phase = .idle → s.commands = c :: rest →
    decode c = .ok i → step s = exec i { s with commands := rest, phase := .busy, resp := none }

/-- No state stops the block: every step answers a next state (R215: the block has no traps; R216; log 18). -/
def Obligations.NothingStopsTheBlock : Prop :=
  (∀ s : State, ∃ t, step s = .next t) ∧ ∀ (i : Instr) (s : State), ∃ t, exec i s = .next t

/-- A BUSY block accepts nothing and stays as it is, however many steps are taken (R26, R243; that a BUSY state is such a stuck one is logs 2 and 3). -/
def Obligations.BusyBlockStaysStuck : Prop :=
  ∀ (k : Nat) (s : State), s.phase = .busy → Host.Core.run core k s = .next s

/-- A command ends BUSY exactly when one of its events got no answer; it then presents no response, and otherwise it presents one (R243, R200; logs 2 and 3). -/
def Obligations.CommandHangsExactlyWhenUnanswered : Prop :=
  ∀ (i : Instr) (s t : State), exec i s = .next t → ∃ es, t.history = s.history ++ es ∧
    (t.phase = .busy ↔ ∃ e ∈ es, e.unanswered = true) ∧ (t.phase = .busy ↔ t.resp = none)

/-- When each collaborator answers its next six events, which COLLAB_ANSWERS gives, a presented command is accepted and ends with one response, the block IDLE and ready for the command behind it (R255, R200, R216); the answers that lie beyond those six are still to come. -/
def Obligations.AnsweredCommandsRespond : Prop :=
  ∀ (s : State) (c : Command) (rest : List Command) (n : Nat), AnswersNext s (6 + n) → s.phase = .idle → s.commands = c :: rest →
    ∃ t r, step s = .next t ∧ t.phase = .idle ∧ t.resp = some r ∧ t.commands = rest ∧ AnswersNext t n

/-- A run ends when each collaborator answers six events for each presented command, which COLLAB_ANSWERS gives: after each of its steps the block is IDLE with one command fewer at its port and that command's response presented, and as many steps as commands are presented end the run (R255, R256). -/
def Obligations.AnsweredRunsEnd : Prop :=
  ∀ s : State, AnswersNext s (6 * s.commands.length) → s.phase = .idle →
    (∀ k, k ≤ s.commands.length → ∃ t, Host.Core.run core k s = .next t ∧ t.phase = .idle ∧
      t.commands = s.commands.drop k ∧ s.history <+: t.history ∧ (k ≠ 0 → ∃ r, t.resp = some r)) ∧
    ∃ t, Host.Core.run core s.commands.length s = .next t ∧ runEnded s t

/-- CAL cannot be observed before INIT (R37, U1): a step of an UNINIT block from two states that differ in CAL alone gives the same state but for CAL, and the same state whole once an instance exists. The value 0 that the model gives CAL at power-on (log 5) thus plays no part. -/
def Obligations.CalIsUnobservableBeforeInit : Prop :=
  ∀ (s t : State) (cal : Calibration), s.life = .uninit → step s = .next t →
    ∃ t', step { s with cal := cal } = .next t' ∧ { t' with cal := t.cal } = t ∧ (t.life = .ready → t' = t)

/-- Power-on (R37, R240): IDLE, UNINIT, CS_REQ UNKNOWN, no response, no event; and whatever legal command other than INIT and ENCADDR is presented first answers E_NOT_INIT and leaves the block as it was. -/
def Obligations.PowerOnBlockAwaitsInit : Prop :=
  State.reset.phase = .idle ∧ State.reset.life = .uninit ∧ State.reset.csReq = .unknown ∧
  State.reset.resp = none ∧ State.reset.history = [] ∧
  ∀ (c : Command) (i : Instr), decode c = .ok i → i ≠ .init → (∀ reg dir, i ≠ .encaddr reg dir) →
    step { State.reset with commands := [c] } = .next { State.reset with resp := some { status := .notInit } }

/-! ### The parameters -/

/-- E and P are arguments (R6, D31): the machine that the host runs is the block of any payload types at BusError and PinError, and no rule looks inside a payload: where the answers are scripted, replacing the payloads before a command or a step gives what replacing them after it gives. The types that the host's machine has are log 9; scripts are log 4. -/
def Obligations.PayloadTypesAreArguments : Prop :=
  (∀ (i : Instr) (s : State), exec i s = execAt i s) ∧ (∀ s : State, step s = stepAt s) ∧
  ∀ (E P E' P' : Type) (f : E → E') (g : P → P') (s : State.Of E P), Scripted s 6 →
    (∀ i, ∃ t, execAt i s = .next t ∧ execAt i (s.mapPayload f g) = .next (t.mapPayload f g)) ∧
    ∃ t, stepAt s = .next t ∧ stepAt (s.mapPayload f g) = .next (t.mapPayload f g)
end

