-- ==== Sys2Proof/Laws/State.lean ====
section
/-! SUPPORT. One lemma per field per update of the shared operations, so that no proof unfolds a record update, and how the answers still to come move when an event takes one. -/

namespace Sys2Proof.Machine

variable {E P : Type}

section powerOn

@[simp] theorem powerOn_cal : (State.Of.powerOn : State.Of E P).cal = 0 := rfl
@[simp] theorem powerOn_life : (State.Of.powerOn : State.Of E P).life = .uninit := rfl
@[simp] theorem powerOn_csReq : (State.Of.powerOn : State.Of E P).csReq = .unknown := rfl
@[simp] theorem powerOn_phase : (State.Of.powerOn : State.Of E P).phase = .idle := rfl
@[simp] theorem powerOn_csLine : (State.Of.powerOn : State.Of E P).csLine = Config.lineDraw 0 := rfl
@[simp] theorem powerOn_commands : (State.Of.powerOn : State.Of E P).commands = [] := rfl
@[simp] theorem powerOn_resp : (State.Of.powerOn : State.Of E P).resp = none := rfl
@[simp] theorem powerOn_csPort : (State.Of.powerOn : State.Of E P).csPort = Port.fresh := rfl
@[simp] theorem powerOn_writePort : (State.Of.powerOn : State.Of E P).writePort = Port.fresh := rfl
@[simp] theorem powerOn_xferPort : (State.Of.powerOn : State.Of E P).xferPort = Port.fresh := rfl
@[simp] theorem powerOn_drdyPort : (State.Of.powerOn : State.Of E P).drdyPort = Port.fresh := rfl
@[simp] theorem powerOn_history : (State.Of.powerOn : State.Of E P).history = [] := rfl
@[simp] theorem powerOn_params : (State.Of.powerOn : State.Of E P).params = Params.default := rfl

end powerOn

section mapPayload

variable {E' P' : Type} (f : E → E') (g : P → P') (s : State.Of E P)

@[simp] theorem mapPayload_cal : (s.mapPayload f g).cal = s.cal := rfl
@[simp] theorem mapPayload_life : (s.mapPayload f g).life = s.life := rfl
@[simp] theorem mapPayload_csReq : (s.mapPayload f g).csReq = s.csReq := rfl
@[simp] theorem mapPayload_phase : (s.mapPayload f g).phase = s.phase := rfl
@[simp] theorem mapPayload_csLine : (s.mapPayload f g).csLine = s.csLine := rfl
@[simp] theorem mapPayload_commands : (s.mapPayload f g).commands = s.commands := rfl
@[simp] theorem mapPayload_resp : (s.mapPayload f g).resp = s.resp.map (Response.mapPayload f g) := rfl
@[simp] theorem mapPayload_csPort : (s.mapPayload f g).csPort = s.csPort.map (Option.map (PinAnswer.mapPayload g)) := rfl
@[simp] theorem mapPayload_writePort : (s.mapPayload f g).writePort = s.writePort.map (Option.map (BusAnswer.mapPayload f)) := rfl
@[simp] theorem mapPayload_xferPort : (s.mapPayload f g).xferPort = s.xferPort.map (Option.map (BusAnswer.mapPayload f)) := rfl
@[simp] theorem mapPayload_drdyPort : (s.mapPayload f g).drdyPort = s.drdyPort.map (Option.map (PinAnswer.mapPayload g)) := rfl
@[simp] theorem mapPayload_history : (s.mapPayload f g).history = s.history.map (Event.mapPayload f g) := rfl
@[simp] theorem mapPayload_params : (s.mapPayload f g).params = s.params := rfl

end mapPayload

section respond

variable (r : Response E P) (s : State.Of E P)

@[simp] theorem respond_cal : (respond r s).cal = s.cal := rfl
@[simp] theorem respond_life : (respond r s).life = s.life := rfl
@[simp] theorem respond_csReq : (respond r s).csReq = s.csReq := rfl
@[simp] theorem respond_phase : (respond r s).phase = .idle := rfl
@[simp] theorem respond_csLine : (respond r s).csLine = s.csLine := rfl
@[simp] theorem respond_commands : (respond r s).commands = s.commands := rfl
@[simp] theorem respond_resp : (respond r s).resp = some r := rfl
@[simp] theorem respond_csPort : (respond r s).csPort = s.csPort := rfl
@[simp] theorem respond_writePort : (respond r s).writePort = s.writePort := rfl
@[simp] theorem respond_xferPort : (respond r s).xferPort = s.xferPort := rfl
@[simp] theorem respond_drdyPort : (respond r s).drdyPort = s.drdyPort := rfl
@[simp] theorem respond_history : (respond r s).history = s.history := rfl
@[simp] theorem respond_params : (respond r s).params = s.params := rfl

end respond

section raise

variable (x : Status) (info : ErrPayload E P) (s : State.Of E P)

@[simp] theorem raise_cal : (raise x info s).cal = s.cal := rfl
@[simp] theorem raise_life : (raise x info s).life = s.life := rfl
@[simp] theorem raise_csReq : (raise x info s).csReq = s.csReq := rfl
@[simp] theorem raise_phase : (raise x info s).phase = .idle := rfl
@[simp] theorem raise_csLine : (raise x info s).csLine = s.csLine := rfl
@[simp] theorem raise_commands : (raise x info s).commands = s.commands := rfl
@[simp] theorem raise_resp : (raise x info s).resp = some { status := x, err := info } := rfl
@[simp] theorem raise_csPort : (raise x info s).csPort = s.csPort := rfl
@[simp] theorem raise_writePort : (raise x info s).writePort = s.writePort := rfl
@[simp] theorem raise_xferPort : (raise x info s).xferPort = s.xferPort := rfl
@[simp] theorem raise_drdyPort : (raise x info s).drdyPort = s.drdyPort := rfl
@[simp] theorem raise_history : (raise x info s).history = s.history := rfl
@[simp] theorem raise_params : (raise x info s).params = s.params := rfl

end raise

section hang

variable (s : State.Of E P)

@[simp] theorem hang_cal : (hang s).cal = s.cal := rfl
@[simp] theorem hang_life : (hang s).life = s.life := rfl
@[simp] theorem hang_csReq : (hang s).csReq = s.csReq := rfl
@[simp] theorem hang_phase : (hang s).phase = .busy := rfl
@[simp] theorem hang_csLine : (hang s).csLine = s.csLine := rfl
@[simp] theorem hang_commands : (hang s).commands = s.commands := rfl
@[simp] theorem hang_resp : (hang s).resp = none := rfl
@[simp] theorem hang_csPort : (hang s).csPort = s.csPort := rfl
@[simp] theorem hang_writePort : (hang s).writePort = s.writePort := rfl
@[simp] theorem hang_xferPort : (hang s).xferPort = s.xferPort := rfl
@[simp] theorem hang_drdyPort : (hang s).drdyPort = s.drdyPort := rfl
@[simp] theorem hang_history : (hang s).history = s.history := rfl
@[simp] theorem hang_params : (hang s).params = s.params := rfl

end hang

section accept

variable (rest : List Command) (s : State.Of E P)

@[simp] theorem accept_cal : (accept rest s).cal = s.cal := rfl
@[simp] theorem accept_life : (accept rest s).life = s.life := rfl
@[simp] theorem accept_csReq : (accept rest s).csReq = s.csReq := rfl
@[simp] theorem accept_phase : (accept rest s).phase = .busy := rfl
@[simp] theorem accept_csLine : (accept rest s).csLine = s.csLine := rfl
@[simp] theorem accept_commands : (accept rest s).commands = rest := rfl
@[simp] theorem accept_resp : (accept rest s).resp = none := rfl
@[simp] theorem accept_csPort : (accept rest s).csPort = s.csPort := rfl
@[simp] theorem accept_writePort : (accept rest s).writePort = s.writePort := rfl
@[simp] theorem accept_xferPort : (accept rest s).xferPort = s.xferPort := rfl
@[simp] theorem accept_drdyPort : (accept rest s).drdyPort = s.drdyPort := rfl
@[simp] theorem accept_history : (accept rest s).history = s.history := rfl
@[simp] theorem accept_params : (accept rest s).params = s.params := rfl

end accept

section csDrive

variable (l : Level) (s : State.Of E P)

@[simp] theorem csDrive_answer : (csDrive l s).1 = s.csAt 0 := rfl
@[simp] theorem csDrive_cal : (csDrive l s).2.cal = s.cal := rfl
@[simp] theorem csDrive_life : (csDrive l s).2.life = s.life := rfl
@[simp] theorem csDrive_csReq : (csDrive l s).2.csReq = l.request := rfl
@[simp] theorem csDrive_phase : (csDrive l s).2.phase = s.phase := rfl
@[simp] theorem csDrive_csLine : (csDrive l s).2.csLine = lineAfter l (Config.lineDraw (s.csPort.asked + 1)) (s.csAt 0) := rfl
@[simp] theorem csDrive_commands : (csDrive l s).2.commands = s.commands := rfl
@[simp] theorem csDrive_resp : (csDrive l s).2.resp = s.resp := rfl
@[simp] theorem csDrive_csPort : (csDrive l s).2.csPort = s.csPort.skip 1 := rfl
@[simp] theorem csDrive_writePort : (csDrive l s).2.writePort = s.writePort := rfl
@[simp] theorem csDrive_xferPort : (csDrive l s).2.xferPort = s.xferPort := rfl
@[simp] theorem csDrive_drdyPort : (csDrive l s).2.drdyPort = s.drdyPort := rfl
@[simp] theorem csDrive_history : (csDrive l s).2.history = s.history ++ [.csDrive l (s.csAt 0)] := rfl
@[simp] theorem csDrive_params : (csDrive l s).2.params = s.params := rfl

end csDrive

section busWrite

variable (tx : List Byte) (s : State.Of E P)

@[simp] theorem busWrite_answer : (busWrite tx s).1 = s.writeAt 0 := rfl
@[simp] theorem busWrite_cal : (busWrite tx s).2.cal = s.cal := rfl
@[simp] theorem busWrite_life : (busWrite tx s).2.life = s.life := rfl
@[simp] theorem busWrite_csReq : (busWrite tx s).2.csReq = s.csReq := rfl
@[simp] theorem busWrite_phase : (busWrite tx s).2.phase = s.phase := rfl
@[simp] theorem busWrite_csLine : (busWrite tx s).2.csLine = s.csLine := rfl
@[simp] theorem busWrite_commands : (busWrite tx s).2.commands = s.commands := rfl
@[simp] theorem busWrite_resp : (busWrite tx s).2.resp = s.resp := rfl
@[simp] theorem busWrite_csPort : (busWrite tx s).2.csPort = s.csPort := rfl
@[simp] theorem busWrite_writePort : (busWrite tx s).2.writePort = s.writePort.skip 1 := rfl
@[simp] theorem busWrite_xferPort : (busWrite tx s).2.xferPort = s.xferPort := rfl
@[simp] theorem busWrite_drdyPort : (busWrite tx s).2.drdyPort = s.drdyPort := rfl
@[simp] theorem busWrite_history : (busWrite tx s).2.history = s.history ++ [.busWrite tx (s.writeAt 0)] := rfl
@[simp] theorem busWrite_params : (busWrite tx s).2.params = s.params := rfl

end busWrite

section busXfer

variable (tx : List Byte) (s : State.Of E P)

@[simp] theorem busXfer_answer : (busXfer tx s).1 = s.xferAt 0 := rfl
@[simp] theorem busXfer_cal : (busXfer tx s).2.cal = s.cal := rfl
@[simp] theorem busXfer_life : (busXfer tx s).2.life = s.life := rfl
@[simp] theorem busXfer_csReq : (busXfer tx s).2.csReq = s.csReq := rfl
@[simp] theorem busXfer_phase : (busXfer tx s).2.phase = s.phase := rfl
@[simp] theorem busXfer_csLine : (busXfer tx s).2.csLine = s.csLine := rfl
@[simp] theorem busXfer_commands : (busXfer tx s).2.commands = s.commands := rfl
@[simp] theorem busXfer_resp : (busXfer tx s).2.resp = s.resp := rfl
@[simp] theorem busXfer_csPort : (busXfer tx s).2.csPort = s.csPort := rfl
@[simp] theorem busXfer_writePort : (busXfer tx s).2.writePort = s.writePort := rfl
@[simp] theorem busXfer_xferPort : (busXfer tx s).2.xferPort = s.xferPort.skip 1 := rfl
@[simp] theorem busXfer_drdyPort : (busXfer tx s).2.drdyPort = s.drdyPort := rfl
@[simp] theorem busXfer_history : (busXfer tx s).2.history = s.history ++ [.busXfer tx ((s.xferAt 0).map (received tx))] := rfl
@[simp] theorem busXfer_params : (busXfer tx s).2.params = s.params := rfl

end busXfer

section drdyRead

variable (s : State.Of E P)

@[simp] theorem drdyRead_answer : (drdyRead s).1 = s.drdyAt 0 := rfl
@[simp] theorem drdyRead_cal : (drdyRead s).2.cal = s.cal := rfl
@[simp] theorem drdyRead_life : (drdyRead s).2.life = s.life := rfl
@[simp] theorem drdyRead_csReq : (drdyRead s).2.csReq = s.csReq := rfl
@[simp] theorem drdyRead_phase : (drdyRead s).2.phase = s.phase := rfl
@[simp] theorem drdyRead_csLine : (drdyRead s).2.csLine = s.csLine := rfl
@[simp] theorem drdyRead_commands : (drdyRead s).2.commands = s.commands := rfl
@[simp] theorem drdyRead_resp : (drdyRead s).2.resp = s.resp := rfl
@[simp] theorem drdyRead_csPort : (drdyRead s).2.csPort = s.csPort := rfl
@[simp] theorem drdyRead_writePort : (drdyRead s).2.writePort = s.writePort := rfl
@[simp] theorem drdyRead_xferPort : (drdyRead s).2.xferPort = s.xferPort := rfl
@[simp] theorem drdyRead_drdyPort : (drdyRead s).2.drdyPort = s.drdyPort.skip 1 := rfl
@[simp] theorem drdyRead_history : (drdyRead s).2.history = s.history ++ [.drdyRead (s.drdyAt 0)] := rfl
@[simp] theorem drdyRead_params : (drdyRead s).2.params = s.params := rfl

end drdyRead

section ports

variable {α : Type} (draw : Nat → α) (p : Port α) (m k : Nat)

/-- After `m` events, the `k`-th answer from then on is the `(m+k)`-th from now. -/
@[simp] theorem Port.reply_skip : (p.skip m).reply draw k = p.reply draw (m + k) := by
  simp [Port.reply, Port.skip, List.getD_eq_getElem?_getD, List.getElem?_drop, Nat.add_assoc]

@[simp] theorem Port.skip_skip : (p.skip m).skip k = p.skip (m + k) := by
  simp [Port.skip, List.drop_drop, Nat.add_assoc]

@[simp] theorem Port.skip_zero : p.skip 0 = p := rfl

@[simp] theorem Port.skip_asked : (p.skip m).asked = p.asked + m := rfl

/-- The first answer of a port with a script is the script's head. -/
@[simp] theorem Port.reply_cons_zero (a : α) (as : List α) (n : Nat) :
    (Port.mk (a :: as) n).reply draw 0 = a := rfl

/-- The later answers of a port with a script come from its tail. -/
@[simp] theorem Port.reply_cons_succ (a : α) (as : List α) (n : Nat) :
    (Port.mk (a :: as) n).reply draw (k + 1) = (Port.mk as (n + 1)).reply draw k := by
  simp [Port.reply, Nat.add_comm, Nat.add_left_comm]

/-- Replacing the answers of a script replaces those that come from it. -/
theorem Port.reply_map {β : Type} (h : α → β) (draw' : Nat → β) (hk : k < p.script.length) :
    (p.map h).reply draw' k = h (p.reply draw k) := by
  simp [Port.reply, Port.map, List.getD_eq_getElem?_getD, hk]

@[simp] theorem Port.skip_map {β : Type} (h : α → β) : (p.map h).skip k = (p.skip k).map h := by
  simp [Port.skip, Port.map]

end ports

section answers

variable (k : Nat) (s : State.Of E P)

@[simp] theorem respond_csAt (r : Response E P) : (respond r s).csAt k = s.csAt k := rfl
@[simp] theorem respond_writeAt (r : Response E P) : (respond r s).writeAt k = s.writeAt k := rfl
@[simp] theorem respond_xferAt (r : Response E P) : (respond r s).xferAt k = s.xferAt k := rfl
@[simp] theorem respond_drdyAt (r : Response E P) : (respond r s).drdyAt k = s.drdyAt k := rfl
@[simp] theorem raise_csAt (x : Status) (info : ErrPayload E P) : (raise x info s).csAt k = s.csAt k := rfl
@[simp] theorem raise_writeAt (x : Status) (info : ErrPayload E P) : (raise x info s).writeAt k = s.writeAt k := rfl
@[simp] theorem raise_xferAt (x : Status) (info : ErrPayload E P) : (raise x info s).xferAt k = s.xferAt k := rfl
@[simp] theorem raise_drdyAt (x : Status) (info : ErrPayload E P) : (raise x info s).drdyAt k = s.drdyAt k := rfl
@[simp] theorem hang_csAt  : (hang s).csAt k = s.csAt k := rfl
@[simp] theorem hang_writeAt  : (hang s).writeAt k = s.writeAt k := rfl
@[simp] theorem hang_xferAt  : (hang s).xferAt k = s.xferAt k := rfl
@[simp] theorem hang_drdyAt  : (hang s).drdyAt k = s.drdyAt k := rfl
@[simp] theorem accept_csAt (rest : List Command) : (accept rest s).csAt k = s.csAt k := rfl
@[simp] theorem accept_writeAt (rest : List Command) : (accept rest s).writeAt k = s.writeAt k := rfl
@[simp] theorem accept_xferAt (rest : List Command) : (accept rest s).xferAt k = s.xferAt k := rfl
@[simp] theorem accept_drdyAt (rest : List Command) : (accept rest s).drdyAt k = s.drdyAt k := rfl
@[simp] theorem csDrive_csAt (l : Level) : (csDrive l s).2.csAt k = s.csAt (1 + k) := by simp [State.Of.csAt]
@[simp] theorem csDrive_writeAt (l : Level) : (csDrive l s).2.writeAt k = s.writeAt k := rfl
@[simp] theorem csDrive_xferAt (l : Level) : (csDrive l s).2.xferAt k = s.xferAt k := rfl
@[simp] theorem csDrive_drdyAt (l : Level) : (csDrive l s).2.drdyAt k = s.drdyAt k := rfl
@[simp] theorem busWrite_csAt (tx : List Byte) : (busWrite tx s).2.csAt k = s.csAt k := rfl
@[simp] theorem busWrite_writeAt (tx : List Byte) : (busWrite tx s).2.writeAt k = s.writeAt (1 + k) := by simp [State.Of.writeAt]
@[simp] theorem busWrite_xferAt (tx : List Byte) : (busWrite tx s).2.xferAt k = s.xferAt k := rfl
@[simp] theorem busWrite_drdyAt (tx : List Byte) : (busWrite tx s).2.drdyAt k = s.drdyAt k := rfl
@[simp] theorem busXfer_csAt (tx : List Byte) : (busXfer tx s).2.csAt k = s.csAt k := rfl
@[simp] theorem busXfer_writeAt (tx : List Byte) : (busXfer tx s).2.writeAt k = s.writeAt k := rfl
@[simp] theorem busXfer_xferAt (tx : List Byte) : (busXfer tx s).2.xferAt k = s.xferAt (1 + k) := by simp [State.Of.xferAt]
@[simp] theorem busXfer_drdyAt (tx : List Byte) : (busXfer tx s).2.drdyAt k = s.drdyAt k := rfl
@[simp] theorem drdyRead_csAt  : (drdyRead s).2.csAt k = s.csAt k := rfl
@[simp] theorem drdyRead_writeAt  : (drdyRead s).2.writeAt k = s.writeAt k := rfl
@[simp] theorem drdyRead_xferAt  : (drdyRead s).2.xferAt k = s.xferAt k := rfl
@[simp] theorem drdyRead_drdyAt  : (drdyRead s).2.drdyAt k = s.drdyAt (1 + k) := by simp [State.Of.drdyAt]

end answers

end Sys2Proof.Machine
end

