-- ==== Sys2Proof/Laws/Ops.lean ====
section
/-! SUPPORT. What each shared procedure can do, said once: FRAME and READ_RAW for every way their collaborators can answer, and what they leave unchanged. -/

namespace Sys2Proof.Machine

variable {E P : Type}

/-! ### FRAME, for any bus primitive -/

section frame

variable {α : Type} {prim : State.Of E P → Option (BusAnswer α E) × State.Of E P} {s s₂ : State.Of E P}
  {r : BusAnswer α E} {lo hi : PinAnswer Unit P}

theorem frame_no_assert (h : s.csAt 0 = none) : frame prim s = (none, (csDrive .low s).2) := by
  unfold frame
  split
  · rename_i heq; rw [heq]
  · rename_i heq; rw [← csDrive_answer .low s, heq] at h; cases h

theorem frame_no_bus_answer (h : s.csAt 0 = some lo) (hp : prim (csDrive .low s).2 = (none, s₂)) :
    frame prim s = (none, s₂) := by
  have hc : csDrive .low s = (some lo, (csDrive .low s).2) := by rw [← h]; rfl
  unfold frame; rw [hc]; simp only [hp]

theorem frame_no_deassert (h : s.csAt 0 = some lo) (hp : prim (csDrive .low s).2 = (some r, s₂))
    (hd : deasserts s.params.csOnXferError r = true) (hh : s₂.csAt 0 = none) :
    frame prim s = (none, (csDrive .high s₂).2) := by
  have hc : csDrive .low s = (some lo, (csDrive .low s).2) := by rw [← h]; rfl
  have hc₂ : csDrive .high s₂ = (none, (csDrive .high s₂).2) := by rw [← hh]; rfl
  unfold frame; rw [hc]; simp only [hp, hd]; rw [hc₂]

theorem frame_closed (h : s.csAt 0 = some lo) (hp : prim (csDrive .low s).2 = (some r, s₂))
    (hd : deasserts s.params.csOnXferError r = true) (hh : s₂.csAt 0 = some hi) :
    frame prim s = (some r, (csDrive .high s₂).2) := by
  have hc : csDrive .low s = (some lo, (csDrive .low s).2) := by rw [← h]; rfl
  have hc₂ : csDrive .high s₂ = (some hi, (csDrive .high s₂).2) := by rw [← hh]; rfl
  unfold frame; rw [hc]; simp only [hp, hd]; rw [hc₂]

theorem frame_held (h : s.csAt 0 = some lo) (hp : prim (csDrive .low s).2 = (some r, s₂))
    (hd : deasserts s.params.csOnXferError r = false) : frame prim s = (some r, s₂) := by
  have hc : csDrive .low s = (some lo, (csDrive .low s).2) := by rw [← h]; rfl
  unfold frame; rw [hc]; simp only [hp, hd]

end frame

@[simp] theorem deasserts_ok {α : Type} (p : CsPolicy) (a : α) : deasserts p (.ok a : BusAnswer α E) = true := rfl
@[simp] theorem deasserts_deassert {α : Type} (e : E) :
    deasserts .deassert (.busErr e : BusAnswer α E) = true := rfl
@[simp] theorem deasserts_hold {α : Type} (e : E) :
    deasserts .hold (.busErr e : BusAnswer α E) = false := rfl

/-! ### FRAME around BusWrite and around BusXfer, with the state it leaves -/

section windows

variable {s : State.Of E P} {lo : PinAnswer Unit P} (tx : List Byte)

/-- A window whose deassert is asked for, around BusWrite (R103); the last pin answer may be missing. -/
theorem frame_busWrite_window {a : BusAnswer Unit E} (h : s.csAt 0 = some lo) (hw : s.writeAt 0 = some a)
    (hd : deasserts s.params.csOnXferError a = true) :
    frame (busWrite tx) s =
      ((s.csAt 1).map fun _ => a,
        { afterWindow s lo (.busWrite tx (some a)) (s.csAt 1) with writePort := s.writePort.skip 1 }) := by
  have hp : busWrite tx (csDrive .low s).2 = (some a, (busWrite tx (csDrive .low s).2).2) := by
    rw [← hw]; rfl
  cases hh : s.csAt 1 with
  | none =>
    rw [frame_no_deassert h hp hd (by simpa using hh)]
    simp [csDrive, busWrite, afterWindow, State.Of.csAt, State.Of.writeAt] at h hw hh ⊢
    simp [h, hw, hh, Level.request, Nat.add_assoc]
  | some hi =>
    rw [frame_closed h hp hd (hi := hi) (by simpa using hh)]
    simp [csDrive, busWrite, afterWindow, State.Of.csAt, State.Of.writeAt] at h hw hh ⊢
    simp [h, hw, hh, Level.request, Nat.add_assoc]

/-- A window that HOLD leaves open after a bus error, around BusWrite (R103). -/
theorem frame_busWrite_held {a : BusAnswer Unit E} (h : s.csAt 0 = some lo) (hw : s.writeAt 0 = some a)
    (hd : deasserts s.params.csOnXferError a = false) :
    frame (busWrite tx) s =
      (some a, { afterHeldWindow s lo (.busWrite tx (some a)) with writePort := s.writePort.skip 1 }) := by
  have hp : busWrite tx (csDrive .low s).2 = (some a, (busWrite tx (csDrive .low s).2).2) := by
    rw [← hw]; rfl
  rw [frame_held h hp hd]
  simp [csDrive, busWrite, afterHeldWindow, State.Of.csAt, State.Of.writeAt] at h hw ⊢
  simp [h, hw, Level.request]

/-- A BusWrite that is never answered (R243). -/
theorem frame_busWrite_unanswered (h : s.csAt 0 = some lo) (hw : s.writeAt 0 = none) :
    frame (busWrite tx) s =
      (none, { afterHeldWindow s lo (.busWrite tx none) with writePort := s.writePort.skip 1 }) := by
  have hp : busWrite tx (csDrive .low s).2 = (none, (busWrite tx (csDrive .low s).2).2) := by
    rw [← hw]; rfl
  rw [frame_no_bus_answer h hp]
  simp [csDrive, busWrite, afterHeldWindow, State.Of.csAt, State.Of.writeAt] at h hw ⊢
  simp [h, hw, Level.request]

/-- A window whose deassert is asked for, around BusXfer (R113); the last pin answer may be missing. -/
theorem frame_busXfer_window {a : BusAnswer RxBytes E} (h : s.csAt 0 = some lo) (hx : s.xferAt 0 = some a)
    (hd : deasserts s.params.csOnXferError a = true) :
    frame (busXfer tx) s =
      ((s.csAt 1).map fun _ => a,
        { afterWindow s lo (.busXfer tx (some (received tx a))) (s.csAt 1) with xferPort := s.xferPort.skip 1 }) := by
  have hp : busXfer tx (csDrive .low s).2 = (some a, (busXfer tx (csDrive .low s).2).2) := by
    rw [← hx]; rfl
  cases hh : s.csAt 1 with
  | none =>
    rw [frame_no_deassert h hp hd (by simpa using hh)]
    simp [csDrive, busXfer, afterWindow, State.Of.csAt, State.Of.xferAt] at h hx hh ⊢
    simp [h, hx, hh, Level.request, Nat.add_assoc]
  | some hi =>
    rw [frame_closed h hp hd (hi := hi) (by simpa using hh)]
    simp [csDrive, busXfer, afterWindow, State.Of.csAt, State.Of.xferAt] at h hx hh ⊢
    simp [h, hx, hh, Level.request, Nat.add_assoc]

/-- A window that HOLD leaves open after a bus error, around BusXfer (R113). -/
theorem frame_busXfer_held {a : BusAnswer RxBytes E} (h : s.csAt 0 = some lo) (hx : s.xferAt 0 = some a)
    (hd : deasserts s.params.csOnXferError a = false) :
    frame (busXfer tx) s =
      (some a, { afterHeldWindow s lo (.busXfer tx (some (received tx a))) with xferPort := s.xferPort.skip 1 }) := by
  have hp : busXfer tx (csDrive .low s).2 = (some a, (busXfer tx (csDrive .low s).2).2) := by
    rw [← hx]; rfl
  rw [frame_held h hp hd]
  simp [csDrive, busXfer, afterHeldWindow, State.Of.csAt, State.Of.xferAt] at h hx ⊢
  simp [h, hx, Level.request]

/-- A BusXfer that is never answered (R243). -/
theorem frame_busXfer_unanswered (h : s.csAt 0 = some lo) (hx : s.xferAt 0 = none) :
    frame (busXfer tx) s =
      (none, { afterHeldWindow s lo (.busXfer tx none) with xferPort := s.xferPort.skip 1 }) := by
  have hp : busXfer tx (csDrive .low s).2 = (none, (busXfer tx (csDrive .low s).2).2) := by
    rw [← hx]; rfl
  rw [frame_no_bus_answer h hp]
  simp [csDrive, busXfer, afterHeldWindow, State.Of.csAt, State.Of.xferAt] at h hx ⊢
  simp [h, hx, Level.request]

end windows

end Sys2Proof.Machine
end

