-- ==== Sys2Proof/Laws/Effects.lean ====
section
/-! SUPPORT. What a piece of a command does to the state besides its response, as a relation that composes: the events it makes, the fields it leaves alone, and how chip-select and the framing automaton move. FRAME, READ_RAW and the single events are placed in it once. -/

namespace Sys2Proof.Machine

variable {E P : Type}

theorem lastDrive_append (es fs : List (Event E P)) :
    lastDrive (es ++ fs) = match lastDrive fs with
      | some d => some d
      | none   => lastDrive es := by
  induction es with
  | nil => simp [lastDrive]; cases lastDrive fs <;> rfl
  | cons e es ih =>
    simp only [List.cons_append, lastDrive, ih]
    cases lastDrive fs <;> rfl

theorem scan_append (p : CsPolicy) (w : Window) (es fs : List (Event E P)) :
    Window.scan p w (es ++ fs) = (Window.scan p w es).bind fun w' => Window.scan p w' fs := by
  induction es generalizing w with
  | nil => rfl
  | cons e es ih =>
    simp only [List.cons_append, Window.scan]
    cases Window.next p w e with
    | none => rfl
    | some w' => exact ih w'

/-! The automaton and the event tests on single events, each by its definition. -/

@[simp] theorem Window.scan_nil (p : CsPolicy) (w : Window) : Window.scan p w ([] : List (Event E P)) = some w := rfl

theorem Window.scan_cons {p : CsPolicy} {w w' : Window} {e : Event E P} (es : List (Event E P)) (h : Window.next p w e = some w') :
    Window.scan p w (e :: es) = Window.scan p w' es := by simp only [Window.scan, h]

@[simp] theorem csDrive_busErrorOf (l : Level) (a : Option (PinAnswer Unit P)) : (Event.csDrive l a : Event E P).busErrorOf = none := rfl
@[simp] theorem csDrive_unanswered (l : Level) (a : Option (PinAnswer Unit P)) : (Event.csDrive l a : Event E P).unanswered = a.isNone := rfl
@[simp] theorem csDrive_isBus (l : Level) (a : Option (PinAnswer Unit P)) : (Event.csDrive l a : Event E P).isBus = false := rfl
@[simp] theorem drdyRead_busErrorOf (a : Option (PinAnswer Level P)) : (Event.drdyRead a : Event E P).busErrorOf = none := rfl
@[simp] theorem drdyRead_unanswered (a : Option (PinAnswer Level P)) : (Event.drdyRead a : Event E P).unanswered = a.isNone := rfl
@[simp] theorem drdyRead_isBus (a : Option (PinAnswer Level P)) : (Event.drdyRead a : Event E P).isBus = false := rfl
@[simp] theorem lastDrive_nil : lastDrive ([] : List (Event E P)) = none := rfl
@[simp] theorem lastDrive_singleton (l : Level) (a : Option (PinAnswer Unit P)) : lastDrive [(.csDrive l a : Event E P)] = some (l, a) := rfl
@[simp] theorem lastDrive_drdyRead (a : Option (PinAnswer Level P)) : lastDrive [(.drdyRead a : Event E P)] = none := rfl

/-- A window opens from a closed or a held place, and its bus event leads where it must. -/
theorem scan_open {p : CsPolicy} {w : Window} {lo : PinAnswer Unit P} (es : List (Event E P)) (hw : w = .closed ∨ w = .held) :
    Window.scan p w (.csDrive .low (some lo) :: es) = Window.scan p .asserted es := by
  rcases hw with rfl | rfl <;> rfl

/-- The four ports have been asked `n` answers in all, and nothing else has happened to them. -/
def PortsAdvance (n : Nat) (s s' : State.Of E P) : Prop :=
  ∃ a b c d, a + b + c + d = n ∧ s'.csPort = s.csPort.skip a ∧ s'.writePort = s.writePort.skip b ∧
    s'.xferPort = s.xferPort.skip c ∧ s'.drdyPort = s.drdyPort.skip d

theorem PortsAdvance.refl (s : State.Of E P) : PortsAdvance 0 s s :=
  ⟨0, 0, 0, 0, rfl, (Port.skip_zero _).symm, (Port.skip_zero _).symm, (Port.skip_zero _).symm, (Port.skip_zero _).symm⟩

theorem PortsAdvance.trans {m n : Nat} {s s₁ s₂ : State.Of E P} (h₁ : PortsAdvance m s s₁) (h₂ : PortsAdvance n s₁ s₂) :
    PortsAdvance (m + n) s s₂ := by
  obtain ⟨a, b, c, d, hm, ha, hb, hc, hd⟩ := h₁
  obtain ⟨a', b', c', d', hn, ha', hb', hc', hd'⟩ := h₂
  exact ⟨a + a', b + b', c + c', d + d', by omega, by rw [ha', ha, Port.skip_skip], by rw [hb', hb, Port.skip_skip],
    by rw [hc', hc, Port.skip_skip], by rw [hd', hd, Port.skip_skip]⟩

theorem AnswersNext.mono {s : State.Of E P} {m n : Nat} (h : AnswersNext s n) (hmn : m ≤ n) : AnswersNext s m :=
  fun k hk => h k (Nat.lt_of_lt_of_le hk hmn)

/-- After `n` events the collaborators still have the answers that lay beyond those. -/
theorem AnswersNext.advance {m n : Nat} {s s' : State.Of E P} (hs : AnswersNext s (n + m)) (h : PortsAdvance n s s') :
    AnswersNext s' m := by
  obtain ⟨a, b, c, d, hn, ha, hb, hc, hd⟩ := h
  intro k hk
  simp only [State.Of.csAt, State.Of.writeAt, State.Of.xferAt, State.Of.drdyAt, ha, hb, hc, hd, Port.reply_skip]
  exact ⟨(hs _ (by omega)).1, (hs _ (by omega)).2.1, (hs _ (by omega)).2.2.1, (hs _ (by omega)).2.2.2⟩

/-- `s'` is `s` after the events `es`, with every field that events do not write unchanged. -/
structure After (s s' : State.Of E P) (es : List (Event E P)) : Prop where
  history  : s'.history = s.history ++ es
  cal      : s'.cal = s.cal
  life     : s'.life = s.life
  phase    : s'.phase = s.phase
  commands : s'.commands = s.commands
  resp     : s'.resp = s.resp
  params   : s'.params = s.params
  request  : ∀ l a, lastDrive es = some (l, a) → s'.csReq = l.request ∧
    (∀ u, a = some (.ok u) → s'.csLine = l) ∧ (∀ p, a = some (.pinErr p) → ∃ k, s'.csLine = Config.lineDraw k)
  quiet    : lastDrive es = none → s'.csReq = s.csReq ∧ s'.csLine = s.csLine
  ports    : PortsAdvance es.length s s'
  answered : AnswersNext s es.length → ∀ e ∈ es, e.unanswered = false

theorem After.refl (s : State.Of E P) : After s s [] :=
  ⟨by simp, rfl, rfl, rfl, rfl, rfl, rfl, by simp [lastDrive], by simp, .refl s, by simp⟩

theorem After.trans {s s₁ s₂ : State.Of E P} {es fs : List (Event E P)} (h₁ : After s s₁ es) (h₂ : After s₁ s₂ fs) :
    After s s₂ (es ++ fs) where
  history  := by rw [h₂.history, h₁.history, List.append_assoc]
  cal      := h₂.cal.trans h₁.cal
  life     := h₂.life.trans h₁.life
  phase    := h₂.phase.trans h₁.phase
  commands := h₂.commands.trans h₁.commands
  resp     := h₂.resp.trans h₁.resp
  params   := h₂.params.trans h₁.params
  request  := by
    intro l a h
    rw [lastDrive_append] at h
    cases hf : lastDrive fs with
    | some d =>
      rw [hf] at h
      exact h₂.request l a (hf.trans h)
    | none =>
      rw [hf] at h
      obtain ⟨hr, hl⟩ := h₂.quiet hf
      rw [hr, hl]
      exact h₁.request l a h
  quiet    := by
    intro h
    rw [lastDrive_append] at h
    cases hf : lastDrive fs with
    | some d => rw [hf] at h; cases h
    | none =>
      rw [hf] at h
      exact ⟨(h₂.quiet hf).1.trans (h₁.quiet h).1, (h₂.quiet hf).2.trans (h₁.quiet h).2⟩
  ports    := by rw [List.length_append]; exact h₁.ports.trans h₂.ports
  answered := by
    intro hs e he
    rw [List.length_append] at hs
    rcases List.mem_append.mp he with h | h
    · exact h₁.answered (hs.mono (Nat.le_add_right _ _)) e h
    · exact h₂.answered (hs.advance h₁.ports) e h

theorem csDrive_after (l : Level) (s : State.Of E P) : After s (csDrive l s).2 [.csDrive l (s.csAt 0)] where
  history  := rfl
  cal      := rfl
  life     := rfl
  phase    := rfl
  commands := rfl
  resp     := rfl
  params   := rfl
  request  := by
    intro l' a h
    obtain ⟨rfl, rfl⟩ := Prod.mk.inj (Option.some.inj (lastDrive_singleton l (s.csAt 0) ▸ h))
    refine ⟨rfl, fun u hu => ?_, fun p hp => ⟨s.csPort.asked + 1, ?_⟩⟩
    · rw [csDrive_csLine, hu]; rfl
    · rw [csDrive_csLine, hp]; rfl
  quiet    := by simp
  ports    := ⟨1, 0, 0, 0, rfl, by simp⟩
  answered := fun hs e he => by
    rw [List.mem_singleton.mp he]
    simpa [Event.unanswered, Option.isSome_iff_ne_none] using (hs 0 Nat.one_pos).1

theorem busWrite_after (tx : List Byte) (s : State.Of E P) : After s (busWrite tx s).2 [.busWrite tx (s.writeAt 0)] :=
  ⟨rfl, rfl, rfl, rfl, rfl, rfl, rfl, by simp [lastDrive], fun _ => ⟨rfl, rfl⟩, ⟨0, 1, 0, 0, rfl, by simp⟩,
    fun hs e he => by rw [List.mem_singleton.mp he]; simpa [Event.unanswered, Option.isSome_iff_ne_none] using (hs 0 Nat.one_pos).2.1⟩

theorem busXfer_after (tx : List Byte) (s : State.Of E P) :
    After s (busXfer tx s).2 [.busXfer tx ((s.xferAt 0).map (received tx))] :=
  ⟨rfl, rfl, rfl, rfl, rfl, rfl, rfl, by simp [lastDrive], fun _ => ⟨rfl, rfl⟩, ⟨0, 0, 1, 0, rfl, by simp⟩,
    fun hs e he => by rw [List.mem_singleton.mp he]; simpa [Event.unanswered, Option.isSome_iff_ne_none] using (hs 0 Nat.one_pos).2.2.1⟩

theorem drdyRead_after (s : State.Of E P) : After s (drdyRead s).2 [.drdyRead (s.drdyAt 0)] :=
  ⟨rfl, rfl, rfl, rfl, rfl, rfl, rfl, by simp [lastDrive], fun _ => ⟨rfl, rfl⟩, ⟨0, 0, 0, 1, rfl, by simp⟩,
    fun hs e he => by rw [List.mem_singleton.mp he]; simpa [Event.unanswered, Option.isSome_iff_ne_none] using (hs 0 Nat.one_pos).2.2.2⟩

/-- How the events of one or more FRAMEs end, by their result: no answer (and the last event has none), success, or a bus error that is the last bus event. The automaton takes them from a closed or a held window. -/
def Framed {α : Type} (p : CsPolicy) (es : List (Event E P)) : Option (BusAnswer α E) → Prop
  | none =>
    (∃ e ∈ es, e.unanswered = true) ∧ (∀ pre e post, es = pre ++ e :: post → e.busErrorOf.isSome = true → ∀ x ∈ post, x.isBus = false) ∧
    ∀ w, w = .closed ∨ w = .held → Window.scan p w es = some .hung
  | some (.ok _) =>
    (∀ e ∈ es, e.unanswered = false) ∧ (∀ e ∈ es, e.busErrorOf = none) ∧
    (lastDrive es).map Prod.fst = some .high ∧ ∀ w, w = .closed ∨ w = .held → Window.scan p w es = some .closed
  | some (.busErr err) =>
    (∀ e ∈ es, e.unanswered = false) ∧ (∀ pre e post, es = pre ++ e :: post → e.busErrorOf.isSome = true → ∀ x ∈ post, x.isBus = false) ∧
    (∃ e ∈ es, e.busErrorOf = some err) ∧
    (((lastDrive es).map Prod.fst = some .high ∧ ∀ w, w = .closed ∨ w = .held → Window.scan p w es = some .closed) ∨
     ((lastDrive es).map Prod.fst = some .low ∧ ∀ w, w = .closed ∨ w = .held → Window.scan p w es = some .held))

/-- A successful FRAME before another piece: the whole is framed as the second piece is. -/
theorem Framed.append {α β : Type} {p : CsPolicy} {es fs : List (Event E P)} {a : α} {r : Option (BusAnswer β E)}
    (h₁ : Framed p es (some (.ok a))) (h₂ : Framed p fs r) : Framed p (es ++ fs) r := by
  obtain ⟨hu, hb, hd, hs⟩ := h₁
  have scanAll : ∀ w, w = .closed ∨ w = .held → Window.scan p w (es ++ fs) = Window.scan p .closed fs := by
    intro w hw; rw [scan_append, hs w hw]; rfl
  have lastHigh : ∀ l, (lastDrive fs).map Prod.fst = some l → (lastDrive (es ++ fs)).map Prod.fst = some l := by
    intro l hl
    rw [lastDrive_append]
    cases hf : lastDrive fs with
    | none => rw [hf] at hl; cases hl
    | some d => rw [hf] at hl; exact hl
  have split : (∀ pre e post, fs = pre ++ e :: post → e.busErrorOf.isSome = true → ∀ x ∈ post, x.isBus = false) →
      ∀ pre e post, es ++ fs = pre ++ e :: post → e.busErrorOf.isSome = true → ∀ x ∈ post, x.isBus = false := by
    intro hf pre e post heq he
    rw [List.append_eq_append_iff] at heq
    rcases heq with ⟨as, rfl, h⟩ | ⟨bs, hes, h⟩
    · exact hf as e post h he
    · cases bs with
      | nil => exact hf [] e post (by simpa using h.symm) he
      | cons b bs =>
        obtain ⟨rfl, rfl⟩ := List.cons.inj h
        have := hb e (by simp [hes])
        simp [this] at he
  match r, h₂ with
  | none, ⟨⟨e, he, hu'⟩, hx, hs'⟩ =>
    exact ⟨⟨e, by simp [he], hu'⟩, split hx, fun w hw => (scanAll w hw).trans (hs' _ (.inl rfl))⟩
  | some (.ok _), ⟨hu', hb', hd', hs'⟩ =>
    refine ⟨?_, ?_, lastHigh _ hd', fun w hw => (scanAll w hw).trans (hs' _ (.inl rfl))⟩
    · intro e he; rcases List.mem_append.mp he with h | h
      · exact hu e h
      · exact hu' e h
    · intro e he; rcases List.mem_append.mp he with h | h
      · exact hb e h
      · exact hb' e h
  | some (.busErr err), ⟨hu', hx, ⟨e, he, hee⟩, hw'⟩ =>
    refine ⟨?_, split hx, ⟨e, by simp [he], hee⟩, ?_⟩
    · intro e he; rcases List.mem_append.mp he with h | h
      · exact hu e h
      · exact hu' e h
    · rcases hw' with ⟨hd', hs'⟩ | ⟨hd', hs'⟩
      · exact .inl ⟨lastHigh _ hd', fun w hw => (scanAll w hw).trans (hs' _ (.inl rfl))⟩
      · exact .inr ⟨lastHigh _ hd', fun w hw => (scanAll w hw).trans (hs' _ (.inl rfl))⟩

/-- Where a bus error is followed by no bus event: the shape of the events of one FRAME. -/
theorem one_bus_event {l₁ l₂ : Level} {a₁ a₂ : Option (PinAnswer Unit P)} {ev : Event E P} (tail : List (Event E P))
    (ht : tail = [] ∨ tail = [.csDrive l₂ a₂]) :
    ∀ pre e post, .csDrive l₁ a₁ :: ev :: tail = pre ++ e :: post → e.busErrorOf.isSome = true →
      ∀ x ∈ post, x.isBus = false := by
  intro pre e post h he x hx
  rcases ht with rfl | rfl <;>
  · match pre, h with
    | [], h => obtain ⟨rfl, rfl⟩ := List.cons.inj h; simp [Event.busErrorOf] at he
    | [_], h => simp at h; obtain ⟨-, rfl, rfl⟩ := h; simp_all [Event.isBus]
    | [_, _], h => simp at h; try (obtain ⟨-, -, rfl, rfl⟩ := h; simp at hx)
    | _ :: _ :: _ :: _, h => simp at h

/-- The bus answers after which FRAME deasserts are those that leave the deassert to come. -/
theorem afterBus_of_deasserts {α : Type} {p : CsPolicy} {r : BusAnswer α E} (h : deasserts p r = true) :
    Window.afterBus p (some r) = .transferred := by
  cases r with
  | ok a => rfl
  | busErr e => cases p with
    | deassert => rfl
    | hold => cases h

/-- FRAME around a bus event `ev a` whose effect on the state is `prim`: what it does, for every answer. -/
theorem frame_after {α : Type} {prim : State.Of E P → Option (BusAnswer α E) × State.Of E P} {s : State.Of E P}
    {ev : Option (BusAnswer α E) → Event E P}
    (hprim : ∀ s', After s' (prim s').2 [ev (prim s').1])
    (hbus : ∀ a, (ev a).busErrorOf = match a with | some (.busErr e) => some e | some (.ok _) => none | none => none)
    (hun : ∀ a, (ev a).unanswered = a.isNone)
    (hnext : ∀ p a, Window.next p .asserted (ev a) = some (Window.afterBus p a))
    (hdrive : ∀ a, lastDrive [ev a] = none) :
    ∃ es, After s (frame prim s).2 es ∧ es.length ≤ 3 ∧ Framed s.params.csOnXferError es (frame prim s).1 := by
  have hbusErr : ∀ e, (ev (some (.busErr e))).busErrorOf = some e := fun e => hbus _
  have scanBus : ∀ {w lo} (a : Option (BusAnswer α E)) (fs : List (Event E P)), w = .closed ∨ w = .held →
      Window.scan s.params.csOnXferError w (.csDrive .low (some lo) :: ev a :: fs) =
        Window.scan s.params.csOnXferError (Window.afterBus s.params.csOnXferError a) fs := by
    intro w lo a fs hw; rw [scan_open _ hw, Window.scan_cons _ (hnext _ a)]
  have hlast : ∀ lo a fs, lastDrive (.csDrive .low (some lo) :: ev a :: fs) =
      match lastDrive fs with | some d => some d | none => some (.low, some lo) := by
    intro lo a fs
    rw [show Event.csDrive .low (some lo) :: ev a :: fs = ([Event.csDrive .low (some lo)] ++ [ev a]) ++ fs from rfl,
      lastDrive_append, lastDrive_append, hdrive, lastDrive_singleton]
  cases hlo : s.csAt 0 with
  | none =>
    rw [frame_no_assert hlo]
    refine ⟨_, csDrive_after .low s, by simp, ⟨_, List.mem_singleton.mpr rfl, by simp [hlo]⟩, ?_, ?_⟩
    · intro pre e post h he x hx
      match pre, h with
      | [], h => simp at h; obtain ⟨-, rfl⟩ := h; simp at hx
      | [_], h => simp at h
      | _ :: _ :: _, h => simp at h
    · rw [hlo]; rintro w (rfl | rfl) <;> rfl
  | some lo =>
    have hA := csDrive_after .low s
    rw [hlo] at hA
    have hAP := hA.trans (hprim (csDrive .low s).2)
    cases hr : (prim (csDrive .low s).2).1 with
    | none =>
      have hp : prim (csDrive .low s).2 = (none, (prim (csDrive .low s).2).2) := by rw [← hr]
      rw [frame_no_bus_answer hlo hp]
      rw [hr] at hAP
      exact ⟨_, hAP, by simp, ⟨ev none, by simp, by simp [hun]⟩, one_bus_event (l₂ := .low) (a₂ := none) [] (.inl rfl),
        fun w hw => scanBus none [] hw⟩
    | some r =>
      have hp : prim (csDrive .low s).2 = (some r, (prim (csDrive .low s).2).2) := by rw [← hr]
      rw [hr] at hAP
      cases hd : deasserts s.params.csOnXferError r with
      | false =>
        rw [frame_held hlo hp hd]
        refine ⟨_, hAP, by simp, ?_⟩
        cases r with
        | ok a => simp at hd
        | busErr e =>
          cases hq : s.params.csOnXferError with
          | deassert => simp [hq] at hd
          | hold =>
            rw [hq] at scanBus
            exact ⟨by simp [hun], one_bus_event (l₂ := .low) (a₂ := none) [] (.inl rfl),
              ⟨ev (some (.busErr e)), by simp, hbusErr e⟩,
              .inr ⟨by rw [show [Event.csDrive .low (some lo)] ++ [ev (some (.busErr e))] =
                  Event.csDrive .low (some lo) :: ev (some (.busErr e)) :: [] from rfl, hlast]; rfl,
                fun w hw => scanBus (some (.busErr e)) [] hw⟩⟩
      | true =>
        have hab : Window.afterBus s.params.csOnXferError (some r) = .transferred := afterBus_of_deasserts hd
        have hAll := hAP.trans (csDrive_after .high (prim (csDrive .low s).2).2)
        cases hhi : (prim (csDrive .low s).2).2.csAt 0 with
        | none =>
          rw [frame_no_deassert hlo hp hd hhi]
          rw [hhi] at hAll
          refine ⟨_, hAll, by simp, ⟨.csDrive .high none, by simp, by simp⟩, one_bus_event [.csDrive .high none] (.inr rfl), ?_⟩
          intro w hw
          exact (scanBus (some r) [.csDrive .high none] hw).trans (by rw [hab]; rfl)
        | some hi =>
          rw [frame_closed hlo hp hd hhi]
          rw [hhi] at hAll
          refine ⟨_, hAll, by simp, ?_⟩
          have hscan : ∀ w, w = .closed ∨ w = .held → Window.scan s.params.csOnXferError w
              ([.csDrive .low (some lo)] ++ [ev (some r)] ++ [.csDrive .high (some hi)]) = some .closed :=
            fun w hw => (scanBus (some r) [.csDrive .high (some hi)] hw).trans (by rw [hab]; rfl)
          have hhigh : (lastDrive ([.csDrive .low (some lo)] ++ [ev (some r)] ++ [.csDrive .high (some hi)])).map Prod.fst =
              some .high := by
            rw [show [Event.csDrive .low (some lo)] ++ [ev (some r)] ++ [Event.csDrive .high (some hi)] =
              Event.csDrive .low (some lo) :: ev (some r) :: [Event.csDrive .high (some hi)] from rfl, hlast]; rfl
          cases r with
          | ok a => exact ⟨by simp [hun], by simp [hbus], hhigh, hscan⟩
          | busErr e =>
            exact ⟨by simp [hun], one_bus_event [.csDrive .high (some hi)] (.inr rfl),
              ⟨ev (some (.busErr e)), by simp, hbusErr e⟩, .inl ⟨hhigh, hscan⟩⟩

/-- FRAME around BusWrite. -/
theorem frame_busWrite_after (tx : List Byte) (s : State.Of E P) :
    ∃ es, After s (frame (busWrite tx) s).2 es ∧ es.length ≤ 3 ∧ Framed s.params.csOnXferError es (frame (busWrite tx) s).1 :=
  frame_after (ev := fun a => .busWrite tx a) (fun s' => busWrite_after tx s')
    (fun a => by rcases a with _ | _ | _ <;> rfl) (fun _ => rfl) (fun _ _ => rfl) (fun _ => rfl)

/-- FRAME around BusXfer. -/
theorem frame_busXfer_after (tx : List Byte) (s : State.Of E P) :
    ∃ es, After s (frame (busXfer tx) s).2 es ∧ es.length ≤ 3 ∧ Framed s.params.csOnXferError es (frame (busXfer tx) s).1 :=
  frame_after (ev := fun a => .busXfer tx (a.map (received tx))) (fun s' => busXfer_after tx s')
    (fun a => by rcases a with _ | _ | _ <;> rfl) (fun a => by cases a <;> rfl)
    (fun p a => by rcases a with _ | _ | _ <;> rfl) (fun _ => rfl)

/-- One sub-read of READ_RAW. -/
theorem readRegister_after (reg : RegId) (s : State.Of E P) :
    ∃ es, After s (readRegister reg s).2 es ∧ es.length ≤ 3 ∧ Framed s.params.csOnXferError es (readRegister reg s).1 := by
  obtain ⟨es, ha, hn, hf⟩ := frame_busXfer_after [readAddress s.params reg, 0x00] s
  refine ⟨es, ?_⟩
  unfold readRegister
  rcases hfr : frame (busXfer [readAddress s.params reg, 0x00]) s with ⟨_ | _ | _, s'⟩ <;>
    rw [hfr] at ha hf <;> exact ⟨ha, hn, hf⟩

/-- READ_RAW. -/
theorem readRaw_after (s : State.Of E P) :
    ∃ es, After s (readRaw s).2 es ∧ es.length ≤ 6 ∧ Framed s.params.csOnXferError es (readRaw s).1 := by
  obtain ⟨es, ha, hn, hf⟩ := readRegister_after .rtdMsb s
  unfold readRaw
  rcases hr : readRegister .rtdMsb s with ⟨_ | a | e, s₁⟩ <;> rw [hr] at ha hf
  · exact ⟨es, ha, by omega, hf⟩
  · obtain ⟨fs, ha', hn', hf'⟩ := readRegister_after .rtdLsb s₁
    have hp := ha.params
    simp only at hp
    rw [hp] at hf'
    refine ⟨es ++ fs, ?_⟩
    dsimp only
    rcases hr' : readRegister .rtdLsb s₁ with ⟨_ | b | e, s₂⟩ <;> rw [hr'] at ha' hf' <;>
      exact ⟨ha.trans ha', by rw [List.length_append]; omega, hf.append hf'⟩
  · exact ⟨es, ha, by omega, hf⟩

end Sys2Proof.Machine
end

