-- ==== Sys2Proof/Laws/Commands.lean ====
section
/-! SUPPORT. What every command can do, said once (exec_effect): the inversion that statements about all commands split on instead of unfolding each meaning. -/

namespace Sys2Proof.Machine

/-- How a command of one or more FRAMEs ends: hung, with the response `good` makes of the answer, or with the bus error. -/
inductive Ended {α : Type} (s : State) (good : α → Response BusError PinError) : State → Prop where
  | hung {s' : State} {es : List (Event BusError PinError)} (after : After s s' es)
      (framed : Framed s.params.csOnXferError es (none : Option (BusAnswer α BusError))) (short : es.length ≤ 6) : Ended s good (hang s')
  | done {s' : State} {es : List (Event BusError PinError)} (a : α) (after : After s s' es)
      (framed : Framed s.params.csOnXferError es (some (.ok a))) (short : es.length ≤ 6) : Ended s good (respond (good a) s')
  | failed {s' : State} {es : List (Event BusError PinError)} (e : BusError) (after : After s s' es)
      (framed : Framed s.params.csOnXferError es (some (.busErr e : BusAnswer α BusError))) (short : es.length ≤ 6) :
      Ended s good (raise .transport (.bus e) s')

theorem writeTransaction_ended (tx : List Byte) (s : State) :
    Ended s (fun _ : Unit => { status := .ok }) (writeTransaction tx s) := by
  obtain ⟨es, ha, hn, hf⟩ := frame_busWrite_after tx s
  unfold writeTransaction
  rcases hfr : frame (busWrite tx) s with ⟨_ | a | e, s'⟩ <;> rw [hfr] at ha hf
  · exact .hung ha hf (by omega)
  · exact .done (good := fun _ : Unit => { status := .ok }) a ha hf (by omega)
  · exact .failed e ha hf (by omega)

theorem readTransaction_ended (reg : RegId) (n : Fin 16) (s : State) :
    Ended s (fun rx => { status := .ok, len := n, buf := receivedBuf n rx }) (readTransaction reg n s) := by
  obtain ⟨es, ha, hn, hf⟩ := frame_busXfer_after (readnTx s.params reg n) s
  unfold readTransaction
  rcases hfr : frame (busXfer (readnTx s.params reg n)) s with ⟨_ | a | e, s'⟩ <;> rw [hfr] at ha hf
  · exact .hung ha hf (by omega)
  · exact .done (good := fun rx => { status := .ok, len := n, buf := receivedBuf n rx }) a ha hf (by omega)
  · exact .failed e ha hf (by omega)

theorem reportRaw_ended (s : State) : Ended s (fun raw => { status := .ok, d16 := raw }) (reportRaw s) := by
  obtain ⟨es, ha, hn, hf⟩ := readRaw_after s
  unfold reportRaw
  rcases hfr : readRaw s with ⟨_ | a | e, s'⟩ <;> rw [hfr] at ha hf
  · exact .hung ha hf (by omega)
  · exact .done (good := fun raw => { status := .ok, d16 := raw }) a ha hf (by omega)
  · exact .failed e ha hf (by omega)

theorem readAndConvert_ended (s : State) :
    Ended s (fun raw => rdconvResponse (conv s.params raw s.cal)) (readAndConvert s) := by
  obtain ⟨es, ha, hn, hf⟩ := readRaw_after s
  unfold readAndConvert
  rcases hfr : readRaw s with ⟨_ | a | e, s'⟩ <;> rw [hfr] at ha hf
  · exact .hung ha hf (by omega)
  · have hp := ha.params
    have hc := ha.cal
    simp only at hp hc
    simp only [hp, hc]
    exact .done (good := fun raw => rdconvResponse (conv s.params raw s.cal)) a ha hf (by omega)
  · exact .failed e ha hf (by omega)

/-- Everything one command can do to a state. -/
inductive Effect (s : State) : Instr → State → Prop where
  | encaddr (reg : RegId) (dir : Dir) :
      Effect s (.encaddr reg dir) (respond { status := .ok, d32 := (addressByte s.params reg dir).zeroExtend 32 } s)
  | zeroCount (reg : RegId) : Effect s (.readn reg 0) (raise .illegal .none s)
  | noInstance (i : Instr) (hl : s.life = .uninit) (hi : i ≠ .init) (he : ∀ reg dir, i ≠ .encaddr reg dir) :
      Effect s i (raise .notInit .none s)
  | write (reg : RegId) (val : Byte) {t : State} (hl : s.life = .ready)
      (h : Ended s (fun _ : Unit => { status := .ok }) t) : Effect s (.write reg val) t
  | readn (reg : RegId) (n : Fin 16) {t : State} (hn : n ≠ 0) (hl : s.life = .ready)
      (h : Ended s (fun rx => { status := .ok, len := n, buf := receivedBuf n rx }) t) : Effect s (.readn reg n) t
  | config (v m o : Bool) (w : Wiring) (f : Filter) {t : State} (hl : s.life = .ready)
      (h : Ended s (fun _ : Unit => { status := .ok }) t) : Effect s (.config v m o w f) t
  | initHung (h : s.csAt 0 = none) : Effect s .init (hang (csDrive .high s).2)
  | initOk (u : Unit) (h : s.csAt 0 = some (.ok u)) :
      Effect s .init (respond { status := .ok } { (csDrive .high s).2 with cal := defaultCal, life := .ready })
  | initErr (p : PinError) (h : s.csAt 0 = some (.pinErr p)) :
      Effect s .init (raise .pin (.pin p) { (csDrive .high s).2 with life := .uninit })
  | setcal (cal : Calibration) (hl : s.life = .ready) :
      Effect s (.setcal cal) (respond { status := .ok } { s with cal := cal })
  | isrdyHung (hl : s.life = .ready) (h : s.drdyAt 0 = none) : Effect s .isrdy (hang (drdyRead s).2)
  | isrdyOk (a : PinAnswer Level PinError) (hl : s.life = .ready) (h : s.drdyAt 0 = some a) :
      Effect s .isrdy (respond { status := .ok, d32 := (readyBit a).zeroExtend 32 } (drdyRead s).2)
  | rdraw {t : State} (hl : s.life = .ready) (h : Ended s (fun raw => { status := .ok, d16 := raw }) t) :
      Effect s .rdraw t
  | rdconv {t : State} (hl : s.life = .ready)
      (h : Ended s (fun raw => rdconvResponse (conv s.params raw s.cal)) t) : Effect s .rdconv t
  | convert (raw : RawSample) (hl : s.life = .ready) :
      Effect s (.convert raw) (respond (convertResponse (conv s.params raw s.cal)) s)

/-- A command without an instance, or the rest of it with one (R205). -/
theorem requireInit_cases (k : State → State) (s : State) :
    (s.life = .uninit ∧ requireInit k s = raise .notInit .none s) ∨ (s.life = .ready ∧ requireInit k s = k s) := by
  unfold requireInit
  cases s.life
  · exact .inl ⟨rfl, rfl⟩
  · exact .inr ⟨rfl, rfl⟩

/-- exec always answers a next state, and it is one of those of Effect. -/
theorem exec_effect (i : Instr) (s : State) : ∃ t, exec i s = .next t ∧ Effect s i t := by
  cases i with
  | encaddr reg dir => exact ⟨_, rfl, .encaddr reg dir⟩
  | write reg val =>
    refine ⟨_, rfl, ?_⟩
    rcases requireInit_cases (writeTransaction [writeAddress s.params reg, val]) s with ⟨hl, h⟩ | ⟨hl, h⟩ <;> rw [h]
    · exact .noInstance _ hl (by simp) (by simp)
    · exact .write _ _ hl (writeTransaction_ended _ s)
  | readn reg n =>
    refine ⟨_, rfl, ?_⟩
    split
    · subst_vars; exact .zeroCount reg
    · rcases requireInit_cases (readTransaction reg n) s with ⟨hl, h⟩ | ⟨hl, h⟩ <;> rw [h]
      · exact .noInstance _ hl (by simp) (by simp)
      · exact .readn _ _ ‹_› hl (readTransaction_ended reg n s)
  | init =>
    refine ⟨_, rfl, ?_⟩
    have hc : csDrive .high s = (s.csAt 0, (csDrive .high s).2) := rfl
    unfold construct
    rw [hc]
    rcases h : s.csAt 0 with _ | u | p
    · exact .initHung h
    · exact .initOk u h
    · exact .initErr p h
  | config v m o w f =>
    refine ⟨_, rfl, ?_⟩
    rcases requireInit_cases (writeTransaction [writeAddress s.params .config, cfgWord v m o w f]) s with ⟨hl, h⟩ | ⟨hl, h⟩ <;> rw [h]
    · exact .noInstance _ hl (by simp) (by simp)
    · exact .config _ _ _ _ _ hl (writeTransaction_ended _ s)
  | setcal cal =>
    refine ⟨_, rfl, ?_⟩
    rcases requireInit_cases (fun s => respond { status := .ok } { s with cal := cal }) s with ⟨hl, h⟩ | ⟨hl, h⟩ <;> rw [h]
    · exact .noInstance _ hl (by simp) (by simp)
    · exact .setcal cal hl
  | isrdy =>
    refine ⟨_, rfl, ?_⟩
    rcases requireInit_cases sampleReady s with ⟨hl, h⟩ | ⟨hl, h⟩ <;> rw [h]
    · exact .noInstance _ hl (by simp) (by simp)
    · have hc : drdyRead s = (s.drdyAt 0, (drdyRead s).2) := rfl
      unfold sampleReady
      rw [hc]
      rcases h : s.drdyAt 0 with _ | a
      · exact .isrdyHung hl h
      · exact .isrdyOk a hl h
  | rdraw =>
    refine ⟨_, rfl, ?_⟩
    rcases requireInit_cases reportRaw s with ⟨hl, h⟩ | ⟨hl, h⟩ <;> rw [h]
    · exact .noInstance _ hl (by simp) (by simp)
    · exact .rdraw hl (reportRaw_ended s)
  | rdconv =>
    refine ⟨_, rfl, ?_⟩
    rcases requireInit_cases readAndConvert s with ⟨hl, h⟩ | ⟨hl, h⟩ <;> rw [h]
    · exact .noInstance _ hl (by simp) (by simp)
    · exact .rdconv hl (readAndConvert_ended s)
  | convert raw =>
    refine ⟨_, rfl, ?_⟩
    rcases requireInit_cases (fun s => respond (convertResponse (conv s.params raw s.cal)) s) s with ⟨hl, h⟩ | ⟨hl, h⟩ <;> rw [h]
    · exact .noInstance _ hl (by simp) (by simp)
    · exact .convert raw hl

/-- The inversion of exec: a next state is one of those of Effect. -/
theorem exec_inv {i : Instr} {s t : State} (h : exec i s = .next t) : Effect s i t := by
  obtain ⟨t', ht', he⟩ := exec_effect i s
  rw [ht'] at h
  cases h
  exact he

/-- A transaction of at most six events takes at most six answers. -/
theorem Ended.ports {α : Type} {s t : State} {good : α → Response BusError PinError} (h : Ended s good t) :
    ∃ n, n ≤ 6 ∧ PortsAdvance n s t := by
  cases h with
  | hung a _ hn => exact ⟨_, hn, a.ports⟩
  | done _ a _ hn => exact ⟨_, hn, a.ports⟩
  | failed _ a _ hn => exact ⟨_, hn, a.ports⟩

/-- With collaborators that answer six events, FRAMEs end in a response. -/
theorem Ended.idle {α : Type} {s t : State} {good : α → Response BusError PinError} (h : Ended s good t) (hs : AnswersNext s 6) :
    t.phase = .idle ∧ ∃ r, t.resp = some r := by
  cases h with
  | hung a f hn =>
    obtain ⟨⟨e, he, hu⟩, -⟩ := f
    rw [a.answered (hs.mono hn) e he] at hu
    cases hu
  | done _ _ _ _ => exact ⟨rfl, _, rfl⟩
  | failed _ _ _ _ => exact ⟨rfl, _, rfl⟩

/-- A command takes at most six answers from its ports. -/
theorem Effect.ports {i : Instr} {s t : State} (h : Effect s i t) : ∃ n, n ≤ 6 ∧ PortsAdvance n s t := by
  have none : PortsAdvance 0 s s := .refl s
  have pin := (csDrive_after .high s).ports
  have ready := (drdyRead_after s).ports
  cases h with
  | encaddr _ _ => exact ⟨_, by decide, none⟩
  | zeroCount _ => exact ⟨_, by decide, none⟩
  | noInstance _ _ _ _ => exact ⟨_, by decide, none⟩
  | write _ _ _ h => exact h.ports
  | readn _ _ _ _ h => exact h.ports
  | config _ _ _ _ _ _ h => exact h.ports
  | initHung _ => exact ⟨1, by decide, pin⟩
  | initOk _ _ => exact ⟨1, by decide, pin⟩
  | initErr _ _ => exact ⟨1, by decide, pin⟩
  | setcal _ _ => exact ⟨_, by decide, none⟩
  | isrdyHung _ _ => exact ⟨1, by decide, ready⟩
  | isrdyOk _ _ _ => exact ⟨1, by decide, ready⟩
  | rdraw _ h => exact h.ports
  | rdconv _ h => exact h.ports
  | convert _ _ => exact ⟨_, by decide, none⟩

/-- With collaborators that answer six events, a command ends in a response (R255). -/
theorem Effect.idle {i : Instr} {s t : State} (h : Effect s i t) (hs : AnswersNext s 6) :
    t.phase = .idle ∧ ∃ r, t.resp = some r := by
  cases h with
  | encaddr _ _ => exact ⟨rfl, _, rfl⟩
  | zeroCount _ => exact ⟨rfl, _, rfl⟩
  | noInstance _ _ _ _ => exact ⟨rfl, _, rfl⟩
  | write _ _ _ h => exact h.idle hs
  | readn _ _ _ _ h => exact h.idle hs
  | config _ _ _ _ _ _ h => exact h.idle hs
  | initHung h => exact absurd h (hs 0 (by decide)).1
  | initOk _ _ => exact ⟨rfl, _, rfl⟩
  | initErr _ _ => exact ⟨rfl, _, rfl⟩
  | setcal _ _ => exact ⟨rfl, _, rfl⟩
  | isrdyHung _ h => exact absurd h (hs 0 (by decide)).2.2.2
  | isrdyOk _ _ _ => exact ⟨rfl, _, rfl⟩
  | rdraw _ h => exact h.idle hs
  | rdconv _ h => exact h.idle hs
  | convert _ _ => exact ⟨rfl, _, rfl⟩

/-- The inversion of step: a waiting block stays as it is; otherwise the command at the port is accepted and either refused as illegal or run. -/
theorem step_inv {s t : State} (h : step s = .next t) :
    (t = s ∧ (s.phase = .busy ∨ s.commands = [])) ∨
    ∃ c rest, s.phase = .idle ∧ s.commands = c :: rest ∧
      ((∃ e, decode c = .error e ∧ t = raise .illegal .none (accept rest s)) ∨
       ∃ i, decode c = .ok i ∧ exec i (accept rest s) = .next t) := by
  unfold step nextCommand at h
  cases hp : s.phase with
  | busy => rw [hp] at h; cases h; exact .inl ⟨rfl, .inl rfl⟩
  | idle =>
    rw [hp] at h
    cases hc : s.commands with
    | nil => rw [hc] at h; cases h; exact .inl ⟨rfl, .inr rfl⟩
    | cons c rest =>
      rw [hc] at h
      refine .inr ⟨c, rest, rfl, rfl, ?_⟩
      simp only [runCommand] at h
      cases hd : decode c with
      | error e => rw [hd] at h; cases h; exact .inl ⟨e, rfl, rfl⟩
      | ok i => rw [hd] at h; exact .inr ⟨i, rfl, h⟩

end Sys2Proof.Machine
end

