-- ==== Sys2Proof/Laws/Conversion.lean ====
section
/-! SUPPORT. The conversion in plain arithmetic: the ratio, the product under each policy, the resistance, and CONV's three results. -/

namespace Sys2Proof.Machine

theorem ratio_toNat (raw : RawSample) : (ratio raw).toNat = raw.toNat / 2 := by
  have := raw.isLt
  simp [ratio, Nat.shiftRight_eq_div_pow]
  omega

theorem ohmsOfProduct_ofNat (p : Nat) :
    ohmsOfProduct (BitVec.ofNat 32 p) = BitVec.ofNat 16 (p % 2 ^ 32 / 2 ^ 15) := by
  apply BitVec.eq_of_toNat_eq
  simp [ohmsOfProduct, Nat.shiftRight_eq_div_pow]

variable {policy : OvfPolicy} {raw : RawSample} {cal : Calibration}

/-- Without overflow, or under WRAP, there is a product (R162). -/
theorem scaledProduct_eq_some (h : raw.toNat / 2 * cal.toNat < 2 ^ 32 ∨ policy = .wrap) :
    scaledProduct policy raw cal = some (BitVec.ofNat 32 (raw.toNat / 2 * cal.toNat)) := by
  unfold scaledProduct exactProduct
  rw [ratio_toNat]
  split
  · rfl
  · rcases h with h | rfl
    · contradiction
    · rfl

/-- An overflow under FAULT has none (R162). -/
theorem scaledProduct_eq_none (h : 2 ^ 32 ≤ raw.toNat / 2 * cal.toNat) : scaledProduct .fault raw cal = none := by
  unfold scaledProduct exactProduct
  rw [ratio_toNat, if_neg (by omega)]

variable {p : Params}

theorem conv_eq_ok {t : Temperature} (h : raw.toNat / 2 * cal.toNat < 2 ^ 32 ∨ p.ovfPolicy = .wrap)
    (ht : Lut.lookup p.lut (BitVec.ofNat 16 (raw.toNat / 2 * cal.toNat % 2 ^ 32 / 2 ^ 15)) = some t) :
    conv p raw cal = .ok (BitVec.ofNat 16 (raw.toNat / 2 * cal.toNat % 2 ^ 32 / 2 ^ 15)) t := by
  simp only [conv, scaledProduct_eq_some h, ohmsOfProduct_ofNat, ht]

theorem conv_eq_range (h : raw.toNat / 2 * cal.toNat < 2 ^ 32 ∨ p.ovfPolicy = .wrap)
    (ht : Lut.lookup p.lut (BitVec.ofNat 16 (raw.toNat / 2 * cal.toNat % 2 ^ 32 / 2 ^ 15)) = none) :
    conv p raw cal = .range (BitVec.ofNat 16 (raw.toNat / 2 * cal.toNat % 2 ^ 32 / 2 ^ 15)) := by
  simp only [conv, scaledProduct_eq_some h, ohmsOfProduct_ofNat, ht]

theorem conv_eq_ovf (h : 2 ^ 32 ≤ raw.toNat / 2 * cal.toNat) (hp : p.ovfPolicy = .fault) : conv p raw cal = .ovf := by
  simp only [conv, hp, scaledProduct_eq_none h]

end Sys2Proof.Machine
end

