-- ==== Sys2Proof/Laws/Decode.lean ====
section
/-! SUPPORT. Facts about words and fields: when a mask or a field of a word is zero, bit by bit; the field conversions; what the decoder's helpers answer. -/

namespace Sys2Proof

/-- A word has no bit under a mask. -/
theorem and_mask_eq_zero_iff (w m : CmdWord) :
    w &&& m = 0#16 ↔ ∀ i < 16, m.getLsbD i = true → w.getLsbD i = false := by
  constructor
  · intro h i hi hm
    have := congrArg (·.getLsbD i) h
    simpa [hm] using this
  · intro h
    apply BitVec.eq_of_getLsbD_eq
    intro i hi
    have := h i hi
    cases hm : m.getLsbD i <;> simp_all

/-- A field of a word is zero. -/
theorem field_eq_zero_iff (w : CmdWord) (a n : Nat) :
    w.extractLsb' a n = 0#n ↔ ∀ i < n, w.getLsbD (a + i) = false := by
  constructor
  · intro h i hi
    have := congrArg (·.getLsbD i) h
    simpa [hi] using this
  · intro h
    apply BitVec.eq_of_getLsbD_eq
    intro i hi
    simp [hi, h i hi]

theorem forall_lt_succ_iff (n : Nat) (p : Nat → Prop) : (∀ i < n + 1, p i) ↔ p n ∧ ∀ i < n, p i := by
  constructor
  · intro h; exact ⟨h n (by omega), fun i hi => h i (by omega)⟩
  · rintro ⟨h, h'⟩ i hi
    rcases Nat.lt_succ_iff_lt_or_eq.mp hi with h1 | rfl
    · exact h' i h1
    · exact h

/-! ### The reserved masks say the bits that R81 lists -/

theorem reservedZ_iff (w : CmdWord) : w &&& reservedZ = 0#16 ↔ w.extractLsb' 0 12 = 0#12 := by
  simp [and_mask_eq_zero_iff, field_eq_zero_iff, forall_lt_succ_iff, Nat.le_one_iff_eq_zero_or_eq_one, forall_eq_or_imp, reservedZ]

theorem reservedEncaddr_iff (w : CmdWord) :
    w &&& reservedEncaddr = 0#16 ↔ w.getLsbD 11 = false ∧ w.extractLsb' 1 7 = 0#7 := by
  simp [and_mask_eq_zero_iff, field_eq_zero_iff, forall_lt_succ_iff, Nat.le_one_iff_eq_zero_or_eq_one, forall_eq_or_imp, reservedEncaddr]
  tauto

theorem reservedWrite_iff (w : CmdWord) : w &&& reservedWrite = 0#16 ↔ w.getLsbD 11 = false := by
  simp [and_mask_eq_zero_iff, forall_lt_succ_iff, Nat.le_one_iff_eq_zero_or_eq_one, forall_eq_or_imp, reservedWrite]

theorem reservedReadn_iff (w : CmdWord) :
    w &&& reservedReadn = 0#16 ↔ w.getLsbD 11 = false ∧ w.extractLsb' 4 4 = 0#4 := by
  simp [and_mask_eq_zero_iff, field_eq_zero_iff, forall_lt_succ_iff, Nat.le_one_iff_eq_zero_or_eq_one, forall_eq_or_imp, reservedReadn]
  tauto

theorem reservedConfig_iff (w : CmdWord) :
    w &&& reservedConfig = 0#16 ↔ w.extractLsb' 8 4 = 0#4 ∧ w.extractLsb' 1 3 = 0#3 := by
  simp [and_mask_eq_zero_iff, field_eq_zero_iff, forall_lt_succ_iff, Nat.le_one_iff_eq_zero_or_eq_one, forall_eq_or_imp, reservedConfig]
  tauto

/-! ### Field conversions -/

@[simp] theorem RegId.ofBits_bits (r : RegId) : RegId.ofBits r.bits = r := by cases r <;> rfl

@[simp] theorem RegId.bits_ofBits (b : BitVec 3) : (RegId.ofBits b).bits = b := by revert b; decide

@[simp] theorem Dir.ofBit_bit (d : Dir) : Dir.ofBit d.bit = d := by cases d <;> rfl

@[simp] theorem Dir.bit_ofBit (b : Bool) : (Dir.ofBit b).bit = b := by cases b <;> rfl

@[simp] theorem Wiring.ofBit_bit (w : Wiring) : Wiring.ofBit w.bit = w := by cases w <;> rfl

@[simp] theorem Wiring.bit_ofBit (b : Bool) : (Wiring.ofBit b).bit = b := by cases b <;> rfl

@[simp] theorem Filter.ofBit_bit (f : Filter) : Filter.ofBit f.bit = f := by cases f <;> rfl

@[simp] theorem Filter.bit_ofBit (b : Bool) : (Filter.ofBit b).bit = b := by cases b <;> rfl

/-! ### The decoder's helpers -/

theorem unlessReserved_eq_ok {w mask : CmdWord} {r : Except Illegal Instr} {i : Instr}
    (h : unlessReserved w mask r = .ok i) : w &&& mask = 0#16 ∧ r = .ok i := by
  unfold unlessReserved at h
  split at h
  · exact ⟨‹_›, h⟩
  · cases h

theorem readnOf_eq_ok {reg : RegId} {n : Fin 16} {i : Instr} (h : readnOf reg n = .ok i) :
    n ≠ 0 ∧ i = .readn reg n := by
  unfold readnOf at h
  split at h
  · cases h
  · exact ⟨‹_›, (Except.ok.inj h).symm⟩

theorem convertOf_eq_ok {d : DataWord} {i : Instr} (h : convertOf d = .ok i) :
    d.extractLsb' 16 16 = 0 ∧ i = .convert (d.extractLsb' 0 16) := by
  unfold convertOf at h
  split at h
  · exact ⟨‹_›, (Except.ok.inj h).symm⟩
  · cases h

theorem ofFin_countField (w : CmdWord) : (BitVec.ofFin (countField w) : BitVec 4) = w.extractLsb' 0 4 := rfl

theorem countField_eq_zero_iff (w : CmdWord) : countField w = 0 ↔ w.extractLsb' 0 4 = 0#4 := by
  unfold countField
  constructor
  · intro h; exact BitVec.eq_of_toFin_eq h
  · intro h; rw [h]; rfl

end Sys2Proof
end

