-- ==== Sys2Proof/Laws/PerInstr.lean ====
section
/-! SUPPORT. The family TableRow: the encoder's word of an instruction matches the match and mask of its row in spec/opcode_table.json. -/

namespace Sys2Proof.Laws.TableRow

/-- The word that encodes `i` matches `i`'s row of the opcode table. -/
def Statement (i : Instr) : Prop := (rowOf i).covers (encodeWord i) = true

theorem encaddr (reg : RegId) (dir : Dir) : Statement (.encaddr reg dir) := by
  cases reg <;> cases dir <;> rfl

theorem write (reg : RegId) (val : Byte) : Statement (.write reg val) := by
  cases reg <;> (revert val; unfold Statement; decide)

theorem readn (reg : RegId) (n : Fin 16) : Statement (.readn reg n) := by
  cases reg <;> (revert n; unfold Statement; decide)

theorem init : Statement .init := rfl

theorem config (vbias mode oneshot : Bool) (wiring : Wiring) (filter : Filter) :
    Statement (.config vbias mode oneshot wiring filter) := by
  cases vbias <;> cases mode <;> cases oneshot <;> cases wiring <;> cases filter <;> rfl

theorem setcal (cal : Calibration) : Statement (.setcal cal) := by
  have hw : encodeWord (.setcal cal) = 0x6000#16 := rfl
  have hr : rowOf (.setcal cal) = ⟨0x6000#16, 0xFFFF#16⟩ := rfl
  unfold Statement
  rw [hw, hr]
  decide

theorem isrdy : Statement .isrdy := rfl

theorem rdraw : Statement .rdraw := rfl

theorem rdconv : Statement .rdconv := rfl

theorem convert (raw : RawSample) : Statement (.convert raw) := by
  have hw : encodeWord (.convert raw) = 0xA000#16 := rfl
  have hr : rowOf (.convert raw) = ⟨0xA000#16, 0xFFFF#16⟩ := rfl
  unfold Statement
  rw [hw, hr]
  decide

end Sys2Proof.Laws.TableRow
end

