-- ==== Sys2Proof/Laws/Reads.lean ====
section
/-! SUPPORT. READ_RAW and its sub-reads when every collaborator answers: the value, and the state they leave. -/

namespace Sys2Proof.Machine

variable {E P : Type}

/-- A 2-byte transfer shows the first two received bytes. -/
theorem received_pair (a b : Byte) (rx : RxBytes) :
    received [a, b] (.ok rx : BusAnswer RxBytes E) = .ok [rx[0], rx[1]] := by
  obtain ⟨⟨l⟩, hl⟩ := rx
  match l, hl with
  | _ :: _ :: _, _ => rfl

/-- The raw composition is `{msb, lsb}` (R53). -/
theorem composeRaw_eq_append (msb lsb : Byte) : composeRaw msb lsb = (msb ++ lsb : BitVec 16) := by
  apply BitVec.eq_of_getLsbD_eq
  intro i hi
  have hi : i < 16 := hi
  simp only [composeRaw, BitVec.getLsbD_append]
  interval_cases i <;> simp

section registers

variable {reg : RegId} {s : State.Of E P} {c₀ c₁ : PinAnswer Unit P} {rx : RxBytes} {e : E}

theorem readRegister_ok (h₀ : s.csAt 0 = some c₀) (h₁ : s.csAt 1 = some c₁) (hx : s.xferAt 0 = some (.ok rx)) :
    readRegister reg s = (some (.ok rx[1]),
      { afterWindow s c₀ (.busXfer [readAddress s.params reg, 0x00] (some (.ok [rx[0], rx[1]]))) (some c₁) with
        xferPort := s.xferPort.skip 1 }) := by
  unfold readRegister
  rw [frame_busXfer_window _ h₀ hx rfl, h₁]
  simp only [Option.map, received_pair]

theorem readRegister_err (h₀ : s.csAt 0 = some c₀) (h₁ : s.csAt 1 = some c₁) (hx : s.xferAt 0 = some (.busErr e))
    (hp : s.params.csOnXferError = .deassert) :
    readRegister reg s = (some (.busErr e),
      { afterWindow s c₀ (.busXfer [readAddress s.params reg, 0x00] (some (.busErr e))) (some c₁) with
        xferPort := s.xferPort.skip 1 }) := by
  unfold readRegister
  rw [frame_busXfer_window _ h₀ hx (by rw [hp]; rfl), h₁]
  simp only [Option.map, received]

theorem readRegister_held (h₀ : s.csAt 0 = some c₀) (hx : s.xferAt 0 = some (.busErr e))
    (hp : s.params.csOnXferError = .hold) :
    readRegister reg s = (some (.busErr e),
      { afterHeldWindow s c₀ (.busXfer [readAddress s.params reg, 0x00] (some (.busErr e))) with
        xferPort := s.xferPort.skip 1 }) := by
  unfold readRegister
  rw [frame_busXfer_held _ h₀ hx (by rw [hp]; rfl)]
  simp only [received]

end registers

/-- READ_RAW when both transfers answer Ok (R150, R152). -/
theorem readRaw_ok {s : State.Of E P} {c₀ c₁ c₂ c₃ : PinAnswer Unit P} {rx₁ rx₂ : RxBytes}
    (h₀ : s.csAt 0 = some c₀) (h₁ : s.csAt 1 = some c₁) (h₂ : s.csAt 2 = some c₂) (h₃ : s.csAt 3 = some c₃)
    (hx₁ : s.xferAt 0 = some (.ok rx₁)) (hx₂ : s.xferAt 1 = some (.ok rx₂)) :
    readRaw s = (some (.ok (rx₁[1] ++ rx₂[1] : BitVec 16)),
      { s with
        csReq := .high, csLine := lineAfter .high (Config.lineDraw (s.csPort.asked + 4)) (some c₃)
        csPort := s.csPort.skip 4, xferPort := s.xferPort.skip 2
        history := s.history ++
          [.csDrive .low (some c₀), .busXfer [readAddress s.params .rtdMsb, 0x00] (some (.ok [rx₁[0], rx₁[1]])), .csDrive .high (some c₁),
           .csDrive .low (some c₂), .busXfer [readAddress s.params .rtdLsb, 0x00] (some (.ok [rx₂[0], rx₂[1]])), .csDrive .high (some c₃)] }) := by
  unfold readRaw
  rw [readRegister_ok h₀ h₁ hx₁]
  simp only
  rw [readRegister_ok (c₀ := c₂) (c₁ := c₃) (rx := rx₂)]
  · simp [composeRaw_eq_append, afterWindow]
  · simpa [afterWindow, State.Of.csAt] using h₂
  · simpa [afterWindow, State.Of.csAt] using h₃
  · simpa [afterWindow, State.Of.xferAt] using hx₂

end Sys2Proof.Machine
end

