-- ==== Sys2Proof/Tests/Slice0.lean ====
section
/-! SUPPORT. Tests with expected values from 95_test_vectors.md and the rules' own examples, and one witness for the hypotheses of every statement of Certificates/Slice0/Obligations.lean. -/

namespace Sys2Proof.Tests

open Sys2Proof.Machine

/-! ### Small states to test on -/

/-- A READY block as a successful INIT leaves it, with answers lined up at its ports and a small table. -/
def block (cs : List (Option (PinAnswer Unit PinError))) (writes : List (Option (BusAnswer Unit BusError)))
    (xfers : List (Option (BusAnswer RxBytes BusError))) (ready : List (Option (PinAnswer Level PinError))) : State :=
  { State.reset with
    cal := 40000, life := .ready, csReq := .high, csLine := .high
    csPort := { script := cs, asked := 0 }, writePort := { script := writes, asked := 0 }
    xferPort := { script := xfers, asked := 0 }, drdyPort := { script := ready, asked := 0 }
    history := [.csDrive .high (some (.ok ()))]
    params := { Params.default with lut := .table [(6875, 6875), (7390, 7390), (39998, 39998)] } }

/-- A pin that answers Ok six times. -/
def goodPin : List (Option (PinAnswer Unit PinError)) := List.replicate 6 (some (.ok ()))

/-- The transfer answer whose first two bytes are given. -/
def bytes (b₀ b₁ : Byte) : Option (BusAnswer RxBytes BusError) :=
  some (.ok #v[b₀, b₁, 0, 0, 0, 0, 0, 0, 0, 0, 0, 0, 0, 0, 0])

/-- A READY block whose collaborators all answer Ok; the raw sample on the bus is 0x2C00. -/
def good : State :=
  block goodPin (List.replicate 6 (some (.ok ()))) [bytes 0xFF 0x2C, bytes 0xFF 0x00, bytes 0 0, bytes 0 0, bytes 0 0, bytes 0 0]
    (List.replicate 6 (some (.ok .low)))

/-- A READY block whose bus fails with error 7 at once. -/
def broken : State := block goodPin [some (.busErr ⟨7⟩)] [some (.busErr ⟨7⟩)] []

/-- A READY block whose bus fails with error 7 at its second transfer. -/
def brokenLater : State := block goodPin [] [bytes 0x00 0x2C, some (.busErr ⟨7⟩)] []

/-- The same block under CS_ON_XFER_ERROR = HOLD. -/
def holding (s : State) : State := { s with params := { s.params with csOnXferError := .hold } }

/-- The same block under OVF_POLICY = WRAP. -/
def wrapping (s : State) : State := { s with params := { s.params with ovfPolicy := .wrap } }

/-- A block whose bus never answers. -/
def silent : State := block goodPin [none] [none] [none]

/-- A block before INIT, whose pin answers as given. -/
def fresh (a : Option (PinAnswer Unit PinError)) : State := { State.reset with csPort := { script := [a], asked := 0 } }

/-- The response that an outcome presents. -/
def responseOf : Host.Outcome State Fault Refusal → Option (Response BusError PinError)
  | .next t    => t.resp
  | .fault _   => none
  | .refused _ => none

/-- The events an outcome's state shows behind the first `n`. -/
def eventsOf (n : Nat) : Host.Outcome State Fault Refusal → List (Event BusError PinError)
  | .next t    => t.history.drop n
  | .fault _   => []
  | .refused _ => []

/-- A test of an outcome's next state; false of a stop. -/
def after (p : State → Bool) : Host.Outcome State Fault Refusal → Bool
  | .next t    => p t
  | .fault _   => false
  | .refused _ => false

/-! ### Well-formedness: the ill-formed term of its one check (R81 item 3) -/

theorem test_readn_of_zero_bytes_is_ill_formed : (Instr.readn .rtdMsb 0).wellFormed = false := by decide
theorem test_readn_of_one_byte_is_well_formed : (Instr.readn .rtdMsb 1).wellFormed = true := by decide

/-! ### Decoding: a word of each command, its bits written out from the formats of R70 -/

theorem test_decode_encaddr : decode { cmd := 0b0001011100000001, data := 0 } = .ok (.encaddr .faultStatus .write) := by decide
theorem test_decode_write : decode { cmd := 0b0010001101011010, data := 0 } = .ok (.write .highFaultMsb 0x5A) := by decide
theorem test_decode_readn : decode { cmd := 0b0011000100000011, data := 0 } = .ok (.readn .rtdMsb 3) := by decide
theorem test_decode_init : decode { cmd := 0b0100000000000000, data := 0 } = .ok .init := by decide
theorem test_decode_config :
    decode { cmd := 0b0101000010110000, data := 0 } = .ok (.config true false true .threeWire .hz60) := by decide
theorem test_decode_setcal : decode { cmd := 0b0110000000000000, data := 0xFFFFFFFF } = .ok (.setcal 0xFFFFFFFF) := by decide
theorem test_decode_isrdy : decode { cmd := 0b0111000000000000, data := 0 } = .ok .isrdy := by decide
theorem test_decode_rdraw : decode { cmd := 0b1000000000000000, data := 0 } = .ok .rdraw := by decide
theorem test_decode_rdconv : decode { cmd := 0b1001000000000000, data := 0 } = .ok .rdconv := by decide
theorem test_decode_convert : decode { cmd := 0b1010000000000000, data := 0x0000FFFF } = .ok (.convert 0xFFFF) := by decide

/-- The illegal words of 95_test_vectors.md 2.1. -/
theorem test_decode_refuses_the_illegal_words :
    ∀ c ∈ ([⟨0x0000, 0⟩, ⟨0xB000, 0⟩, ⟨0xF123, 0⟩, ⟨0x1800, 0⟩, ⟨0x1002, 0⟩, ⟨0x1080, 0⟩, ⟨0x2800, 0⟩, ⟨0x3100, 0⟩,
      ⟨0x3112, 0⟩, ⟨0x3902, 0⟩, ⟨0x4001, 0⟩, ⟨0x5002, 0⟩, ⟨0x5100, 0⟩, ⟨0x6001, 40000⟩, ⟨0x7010, 0⟩, ⟨0x8100, 0⟩,
      ⟨0x9001, 0⟩, ⟨0xA001, 0x2C00⟩, ⟨0xA000, 0x00012C00⟩, ⟨0xA000, 0x0001FFFE⟩] : List Command),
      (match decode c with | .ok _ => false | .error _ => true) = true := by decide

/-- The words that the host numbers as one row of bits: CMD below DATA. -/
theorem test_table_word_of_convert : decodeTableWord 48 0x2C00A000 = some (.convert 0x2C00) := by decide
theorem test_table_word_without_data : decodeTableWord 16 0x27FF = some (.write .faultStatus 0xFF) := by decide
theorem test_placed_word_is_run : responseOf (step (State.reset.withFetchWord 16 0x1701)) = some { status := .ok, d32 := 0x87 } := by decide

/-! ### Each command, with answers from 95_test_vectors.md -/

theorem test_encaddr_other_base :
    responseOf (execEncaddr .rtdLsb .write
      { State.reset with params := { Params.default with regBase := #v[0, 1, 0x7F, 3, 4, 5, 6, 7] } }) =
      some { status := .ok, d32 := 0xFF } := by decide

theorem test_write_events : eventsOf 1 (execWrite .highFaultMsb 0x5A good) =
    [.csDrive .low (some (.ok ())), .busWrite [0x83, 0x5A] (some (.ok ())), .csDrive .high (some (.ok ()))] := by decide

theorem test_write_held_after_error :
    after (fun t => t.csReq = .low ∧ t.resp = some { status := .transport, err := .bus ⟨7⟩ } ∧ t.history.length = 3)
      (execWrite .lowFaultLsb 0x80 (holding broken)) = true := by decide

theorem test_readn_fifteen_bytes : eventsOf 1 (execReadn .faultStatus 15 (block goodPin [] [some (.busErr ⟨1⟩)] [])) =
    [.csDrive .low (some (.ok ())), .busXfer (0x07 :: List.replicate 14 0x00) (some (.busErr ⟨1⟩)),
     .csDrive .high (some (.ok ()))] := by decide

theorem test_readn_one_byte : responseOf (execReadn .config 1 good) =
    some { status := .ok, len := 1, buf := #v[0xFF, 0, 0, 0, 0, 0, 0, 0, 0, 0, 0, 0, 0, 0, 0] } := by decide

theorem test_init_restores_the_default :
    after (fun t => t.cal = 40000 ∧ t.life = .ready ∧ t.csReq = .high ∧ t.resp = some { status := .ok })
      (execInit { good with cal := 43000 }) = true := by decide

theorem test_init_fails_and_keeps_cal :
    after (fun t => t.cal = 43000 ∧ t.life = .uninit ∧ t.csReq = .high ∧ t.resp = some { status := .pin, err := .pin ⟨3⟩ })
      (execInit { block [some (.pinErr ⟨3⟩)] [] [] [] with cal := 43000, csReq := .low }) = true := by decide

theorem test_config_0x80 : (eventsOf 1 (execConfig true false false .twoOrFourWire .hz60 good))[1]? =
    some (.busWrite [0x80, 0x80] (some (.ok ()))) := by decide

theorem test_config_0xD1 : (eventsOf 1 (execConfig true true false .threeWire .hz50 good))[1]? =
    some (.busWrite [0x80, 0xD1] (some (.ok ()))) := by decide

theorem test_setcal_43000 : after (fun t => t.cal = 43000 ∧ t.resp = some { status := .ok }) (execSetcal 0xA7F8 good) = true := by decide

theorem test_isrdy_low : responseOf (execIsrdy good) = some { status := .ok, d32 := 1 } := by decide
theorem test_isrdy_pin_error_is_absorbed :
    responseOf (execIsrdy (block [] [] [] [some (.pinErr ⟨1⟩)])) = some { status := .ok } := by decide

theorem test_rdraw_X5 : responseOf (execRdraw (block goodPin [] [bytes 0xFF 0x01, bytes 0xFF 0x02] [])) =
    some { status := .ok, d16 := 0x0102 } := by decide

theorem test_rdraw_lsb_fails :
    after (fun t => t.resp = some { status := .transport, err := .bus ⟨7⟩ } ∧ t.csReq = .low ∧ t.history.length = 6)
      (execRdraw (holding brokenLater)) = true := by decide

theorem test_convert_X9 : responseOf (execConvert 0x2C00 good) = some { status := .ok, d16 := 6875, d32 := 6875 } := by decide
theorem test_convert_wraps : ohmsOfProduct <$> scaledProduct .wrap 0x0004 0xFFFFFFFF = some 65535 := by decide

theorem test_rdconv_X9 : responseOf (execRdconv good) = some { status := .ok, d32 := 6875 } := by decide
theorem test_rdconv_overflows_after_six_events :
    after (fun t => t.resp = some { status := .mulOvf } ∧ t.history.length = 7)
      (execRdconv { block goodPin [] [bytes 0 0xFF, bytes 0 0xFE] [] with cal := 131077 }) = true := by decide

/-- R243: a bus that never answers leaves the block BUSY, without a response, chip-select still requested LOW. -/
theorem test_silent_bus_hangs :
    after (fun t => t.phase = .busy ∧ t.resp = none ∧ t.csReq = .low) (execWrite .config 0 silent) = true := by decide

/-- The fault flag is bit 0 of the sample (R29). -/
theorem test_fault_flag : faultFlag 0x2C01 = true ∧ faultFlag 0x2C00 = false := by decide

/-- The status codes of R200. -/
theorem test_status_codes :
    [Status.ok, .transport, .pin, .illegal, .notInit, .mulOvf, .lutRange].map Status.code = [0, 1, 2, 3, 4, 5, 6] := by decide

/-- The default register bases put RTD_MSB and RTD_LSB side by side (R50). -/
theorem test_default_rtd_registers_adjoin : rtdRegistersAdjoin Params.default := by
  unfold rtdRegistersAdjoin; decide

/-! ### Witnesses: for each statement with hypotheses, a state and operands that meet them, every clause at a boundary of its range -/

theorem witness_DecodeOfEncodeIsTheInstruction : (Instr.readn .faultStatus 15).wellFormed = true ∧ (Instr.readn .config 1).wellFormed = true := by decide

theorem witness_EncodeOfDecodeIsTheWord :
    decode { cmd := 0x27FF, data := 0xFFFFFFFF } = .ok (.write .faultStatus 0xFF) ∧ decode { cmd := 0x1000, data := 0 } = .ok (.encaddr .config .read) := by decide

theorem witness_LegalWordMatchesExactlyItsRow :
    decode { cmd := 0x5000, data := 0 } = .ok (.config false false false .twoOrFourWire .hz60) ∧
    (rowOf (.config true true true .threeWire .hz50)).covers 0x5000 = true := by decide

/-- Every item of R81 at an edge of its range, and legal words beside them; the two commands that read DATA are legal too. -/
theorem witness_ListedEncodingsAndNoOthersAreIllegal :
    good.phase = .idle ∧
    (∀ c ∈ ([⟨0x0FFF, 0⟩, ⟨0xB000, 0⟩, ⟨0xFFFF, 0⟩, ⟨0x1800, 0⟩, ⟨0x2FFF, 0⟩, ⟨0x3801, 0⟩, ⟨0x1002, 0⟩, ⟨0x1080, 0⟩, ⟨0x3011, 0⟩,
      ⟨0x3081, 0⟩, ⟨0x5100, 0⟩, ⟨0x5800, 0⟩, ⟨0x5002, 0⟩, ⟨0x5008, 0⟩, ⟨0x4001, 0⟩, ⟨0x4800, 0⟩, ⟨0x6001, 0⟩, ⟨0xA800, 0⟩, ⟨0x3700, 0⟩,
      ⟨0xA000, 0x10000⟩, ⟨0xA000, 0x80000000⟩] : List Command), listedIllegal c) ∧
    (∀ c ∈ ([⟨0x1701, 1⟩, ⟨0x27FF, 1⟩, ⟨0x3001, 1⟩, ⟨0x370F, 1⟩, ⟨0x4000, 1⟩, ⟨0x50F1, 1⟩, ⟨0x7000, 1⟩, ⟨0x8000, 1⟩, ⟨0x9000, 1⟩] : List Command),
      ¬ listedIllegal c ∧ opcodeField c.cmd ≠ 0x6 ∧ opcodeField c.cmd ≠ 0xA) ∧
    ¬ listedIllegal ⟨0x6000, 0xFFFFFFFF⟩ ∧ ¬ listedIllegal ⟨0xA000, 0xFFFF⟩ := by
  refine ⟨rfl, ?_, ?_, ?_, ?_⟩
  · dsimp only [listedIllegal]; decide
  · dsimp only [listedIllegal]; decide
  · simp [listedIllegal]
  · simp [listedIllegal]

theorem witness_PseudoInstructionsExpand : (0x02 : Byte) &&& 0x0E ≠ 0 ∧ (0x08 : Byte) &&& 0x0E ≠ 0 ∧ (0xF1 : Byte) &&& 0x0E = 0 := by decide

theorem witness_WriteRunsOneFramedBusWrite :
    (good.life = .ready ∧ good.csAt 0 = some (.ok ()) ∧ good.writeAt 0 = some (.ok ()) ∧ good.csAt 1 = some (.ok ())) ∧
    (broken.life = .ready ∧ broken.csAt 0 = some (.ok ()) ∧ broken.writeAt 0 = some (.busErr ⟨7⟩) ∧
      broken.params.csOnXferError = .deassert ∧ broken.csAt 1 = some (.ok ())) ∧
    ((holding broken).life = .ready ∧ (holding broken).csAt 0 = some (.ok ()) ∧ (holding broken).writeAt 0 = some (.busErr ⟨7⟩) ∧
      (holding broken).params.csOnXferError = .hold) := by decide

theorem witness_ConfigWritesTheConfigurationWord :
    (good.life = .ready ∧ good.csAt 0 = some (.ok ()) ∧ good.writeAt 0 = some (.ok ()) ∧ good.csAt 1 = some (.ok ())) ∧
    (broken.life = .ready ∧ broken.csAt 0 = some (.ok ()) ∧ broken.writeAt 0 = some (.busErr ⟨7⟩) ∧
      broken.params.csOnXferError = .deassert ∧ broken.csAt 1 = some (.ok ())) ∧
    ((holding broken).life = .ready ∧ (holding broken).csAt 0 = some (.ok ()) ∧ (holding broken).writeAt 0 = some (.busErr ⟨7⟩) ∧
      (holding broken).params.csOnXferError = .hold) :=
  witness_WriteRunsOneFramedBusWrite

theorem witness_ReadnRunsOneFramedTransfer :
    ((1 : Fin 16) ≠ 0 ∧ (15 : Fin 16) ≠ 0) ∧
    (good.life = .ready ∧ good.csAt 0 = some (.ok ()) ∧ good.xferAt 0 = bytes 0xFF 0x2C ∧ good.csAt 1 = some (.ok ())) ∧
    (broken.life = .ready ∧ broken.csAt 0 = some (.ok ()) ∧ broken.xferAt 0 = some (.busErr ⟨7⟩) ∧
      broken.params.csOnXferError = .deassert ∧ broken.csAt 1 = some (.ok ())) ∧
    ((holding broken).life = .ready ∧ (holding broken).csAt 0 = some (.ok ()) ∧ (holding broken).xferAt 0 = some (.busErr ⟨7⟩) ∧
      (holding broken).params.csOnXferError = .hold) := by decide

theorem witness_InitConstructsAnInstance : (fresh (some (.ok ()))).csAt 0 = some (.ok ()) ∧ good.csAt 0 = some (.ok ()) := by decide

theorem witness_FailedInitLeavesNoInstance : (fresh (some (.pinErr ⟨3⟩))).csAt 0 = some (.pinErr ⟨3⟩) := by decide

theorem witness_SetcalOverwritesTheCalibration : good.life = .ready := by decide

theorem witness_IsrdySamplesTheReadyPinOnce :
    good.life = .ready ∧ good.drdyAt 0 = some (.ok .low) ∧ (block [] [] [] [some (.ok .high)]).drdyAt 0 = some (.ok .high) ∧
    (block [] [] [] [some (.pinErr ⟨1⟩)]).drdyAt 0 = some (.pinErr ⟨1⟩) := by decide

theorem witness_RdrawComposesTheSample :
    good.life = .ready ∧ good.csAt 0 = some (.ok ()) ∧ good.csAt 1 = some (.ok ()) ∧ good.csAt 2 = some (.ok ()) ∧
    good.csAt 3 = some (.ok ()) ∧ good.xferAt 0 = bytes 0xFF 0x2C ∧ good.xferAt 1 = bytes 0xFF 0x00 := by decide

theorem witness_FailedMsbReadEndsRdrawAndRdconv :
    broken.life = .ready ∧ broken.csAt 0 = some (.ok ()) ∧ broken.xferAt 0 = some (.busErr ⟨7⟩) ∧
    broken.params.csOnXferError = .deassert ∧ broken.csAt 1 = some (.ok ()) ∧
    (holding broken).csAt 0 = some (.ok ()) ∧ (holding broken).xferAt 0 = some (.busErr ⟨7⟩) ∧ (holding broken).params.csOnXferError = .hold := by decide

theorem witness_FailedLsbReadKeepsNothing :
    brokenLater.life = .ready ∧ brokenLater.csAt 0 = some (.ok ()) ∧ brokenLater.csAt 1 = some (.ok ()) ∧
    brokenLater.csAt 2 = some (.ok ()) ∧ brokenLater.xferAt 0 = bytes 0x00 0x2C ∧ brokenLater.xferAt 1 = some (.busErr ⟨7⟩) ∧
    brokenLater.params.csOnXferError = .deassert ∧ brokenLater.csAt 3 = some (.ok ()) ∧
    (holding brokenLater).csAt 2 = some (.ok ()) ∧ (holding brokenLater).xferAt 1 = some (.busErr ⟨7⟩) ∧
    (holding brokenLater).params.csOnXferError = .hold := by decide

theorem witness_RdrawReturnsTheLatchedSample :
    ChipLatch good 0x2C00 ∧ good.life = .ready ∧ good.csAt 0 ≠ none ∧ good.csAt 1 ≠ none ∧ good.csAt 2 ≠ none ∧ good.csAt 3 ≠ none :=
  ⟨⟨_, _, rfl, rfl, by decide, by decide⟩, by decide⟩

/-- The product at 2^32 - 1 (the last without overflow) with no table entry for its resistance 65535; an entry found; and the product beyond 2^32, wrapped and faulting. -/
theorem witness_ConvertAppliesTheConversion :
    good.life = .ready ∧
    ((0x2C00 : RawSample).toNat / 2 * good.cal.toNat < 2 ^ 32 ∧ Lut.lookup good.params.lut 6875 = some 6875) ∧
    ((0x0002 : RawSample).toNat / 2 * (0xFFFFFFFF : Calibration).toNat = 2 ^ 32 - 1 ∧ Lut.lookup good.params.lut 65535 = none) ∧
    ((wrapping good).params.ovfPolicy = .wrap ∧ 2 ^ 32 ≤ (0xFFFE : RawSample).toNat / 2 * (131077 : Calibration).toNat) ∧
    good.params.ovfPolicy = .fault := by decide

theorem witness_RdconvReadsAndConverts :
    good.xferAt 0 = bytes 0xFF 0x2C ∧ good.xferAt 1 = bytes 0xFF 0x00 ∧
    (0x2C#8 ++ 0x00#8 : BitVec 16).toNat / 2 * good.cal.toNat < 2 ^ 32 ∧ Lut.lookup good.params.lut 6875 = some 6875 ∧
    (0xFF#8 ++ 0xFE#8 : BitVec 16).toNat / 2 * (131076 : Calibration).toNat = 2 ^ 32 - 4 ∧ Lut.lookup good.params.lut 65535 = none ∧
    2 ^ 32 ≤ (0xFF#8 ++ 0xFE#8 : BitVec 16).toNat / 2 * (131077 : Calibration).toNat ∧ good.params.ovfPolicy = .fault ∧
    good.life = .ready ∧ good.csAt 0 = some (.ok ()) ∧ good.csAt 1 = some (.ok ()) ∧ good.csAt 2 = some (.ok ()) ∧
    good.csAt 3 = some (.ok ()) := by decide

theorem witness_FaultFlagDoesNotAffectConversion : (0x2C00 : RawSample).extractLsb' 1 15 = (0x2C01 : RawSample).extractLsb' 1 15 := by decide

theorem witness_NoOverflowUpToTheBound :
    (131076 : Calibration).toNat ≤ 131076 ∧ 131076 < (131077 : Calibration).toNat ∧ Params.default.ovfPolicy = .fault := by decide

theorem witness_ResistanceIsTheExactQuotient :
    (0xFFFF : RawSample).toNat / 2 * (65538 : Calibration).toNat < 2 ^ 31 ∧ (0xFFFE : RawSample).toNat / 2 = 32767 ∧
    1 ≤ (1 : Calibration).toNat ∧ (65538 : Calibration).toNat ≤ 65538 := by decide

/-- What the small table answers. -/
theorem lookup_small_table {q : Ohms} {t : Temperature} (h : Lut.lookup good.params.lut q = some t) :
    (q = 6875 ∧ t = 6875) ∨ (q = 7390 ∧ t = 7390) ∨ (q = 39998 ∧ t = 39998) := by
  simp only [Lut.lookup, good, block, List.find?, Option.map_eq_some_iff] at h
  obtain ⟨e, he, rfl⟩ := h
  split at he
  · rename_i hq; cases he; exact .inl ⟨(beq_iff_eq.mp hq).symm, rfl⟩
  · split at he
    · rename_i hq; cases he; exact .inr (.inl ⟨(beq_iff_eq.mp hq).symm, rfl⟩)
    · split at he
      · rename_i hq; cases he; exact .inr (.inr ⟨(beq_iff_eq.mp hq).symm, rfl⟩)
      · cases he

/-- The small table meets LUT_MONO, increasing; and one with its temperatures in the other order, decreasing. -/
theorem witness_ConversionIsMonotonicUpToTheBound :
    (65538 : Calibration).toNat ≤ 65538 ∧ (0x2C00 : RawSample) ≤ 0xFFFE ∧
    conv good.params 0x2C00 40000 = .ok 6875 6875 ∧ conv good.params 0xFFFE 40000 = .ok 39998 39998 ∧
    LutIncreasing good.params.lut ∧ LutDecreasing (.table [(0, 1)]) := by
  refine ⟨by decide, by decide, by decide, by decide, ?_, ?_⟩
  · intro a b ta tb hab ha hb
    rcases lookup_small_table ha with ⟨rfl, rfl⟩ | ⟨rfl, rfl⟩ | ⟨rfl, rfl⟩ <;>
      rcases lookup_small_table hb with ⟨rfl, rfl⟩ | ⟨rfl, rfl⟩ | ⟨rfl, rfl⟩ <;> revert hab <;> decide
  · intro a b ta tb hab ha hb
    have zero : ∀ {q t}, Lut.lookup (.table [(0, 1)]) q = some t → q = 0 := by
      intro q t h
      simp only [Lut.lookup, List.find?, Option.map_eq_some_iff] at h
      obtain ⟨e, he, -⟩ := h
      split at he
      · rename_i hq; exact (beq_iff_eq.mp hq).symm
      · cases he
    rw [zero ha, zero hb] at hab
    exact absurd hab (by decide)

theorem witness_ConvertDependsOnCalAndLutOnly :
    good.life = .ready ∧ broken.life = .ready ∧ good.cal = broken.cal ∧ good.params.lut = broken.params.lut ∧
    good.params.ovfPolicy = broken.params.ovfPolicy ∧ good.writeAt 0 ≠ broken.writeAt 0 := by decide

theorem witness_ConvertSeesThePrecedingSetcal :
    good.phase = .idle ∧ good.life = .ready ∧ (0x2C00 : RawSample).toNat / 2 * (43000 : Calibration).toNat < 2 ^ 31 ∧
    Lut.lookup good.params.lut (BitVec.ofNat 16 ((0x2C00 : RawSample).toNat / 2 * (43000 : Calibration).toNat / 2 ^ 15)) = some 7390 ∧
    ({ good with commands := [encode (.setcal 43000), encode (.convert 0x2C00)] } : State).commands =
      encode (.setcal 43000) :: encode (.convert 0x2C00) :: [] := by decide

/-- Each of the eight commands that need an instance, without one. -/
theorem witness_CommandsNeedAnInstance :
    (∀ i ∈ [Instr.write .config 0, .readn .rtdMsb 2, .config false false false .twoOrFourWire .hz60, .setcal 43000, .isrdy, .rdraw,
      .rdconv, .convert 0x2C00], i.wellFormed = true ∧ i ≠ .init ∧ ∀ reg dir, i ≠ .encaddr reg dir) ∧ State.reset.life = .uninit := by
  refine ⟨?_, rfl⟩
  intro i hi
  simp only [List.mem_cons, List.not_mem_nil, or_false] at hi
  rcases hi with rfl | rfl | rfl | rfl | rfl | rfl | rfl | rfl <;> exact ⟨by decide, by decide, by intro _ _ h; cases h⟩

/-- A command that ends in each status: OK, E_TRANSPORT, E_PIN, E_NOT_INIT, E_MUL_OVF, E_LUT_RANGE. -/
theorem witness_StatusesComeFromTheirCommands :
    (∀ i : Instr, ∀ s : State, ∃ t, exec i s = .next t) ∧
    after (fun t => t.phase = .idle ∧ t.resp = some { status := .ok }) (exec (.write .config 0) good) = true ∧
    after (fun t => t.phase = .idle ∧ t.resp = some { status := .transport, err := .bus ⟨7⟩ }) (exec .rdraw broken) = true ∧
    after (fun t => t.phase = .idle ∧ t.resp = some { status := .pin, err := .pin ⟨3⟩ }) (exec .init (fresh (some (.pinErr ⟨3⟩)))) = true ∧
    after (fun t => t.phase = .idle ∧ t.resp = some { status := .notInit }) (exec .isrdy State.reset) = true ∧
    after (fun t => t.phase = .idle ∧ t.resp = some { status := .mulOvf }) (exec (.convert 0xFFFE) { good with cal := 131077 }) = true ∧
    after (fun t => t.phase = .idle ∧ t.resp = some { status := .lutRange }) (exec (.convert 0x0100) good) = true :=
  ⟨fun i s => (exec_effect i s).imp fun _ h => h.1, by decide⟩

theorem witness_TransportErrorsPassOnVerbatim :
    ∃ t r, exec .rdconv brokenLater = .next t ∧ t.phase = .idle ∧ t.resp = some r ∧ r.err = .bus ⟨7⟩ :=
  ⟨_, _, rfl, by decide, rfl, by decide⟩

theorem witness_ConversionErrorsFollowBothReads :
    (∃ t r, exec .rdconv { good with cal := 0xFFFFFFFF } = .next t ∧ t.phase = .idle ∧ t.resp = some r ∧ r.status = .mulOvf) ∧
    (∃ t r, exec .rdconv { good with cal := 1 } = .next t ∧ t.phase = .idle ∧ t.resp = some r ∧ r.status = .lutRange) :=
  ⟨⟨_, _, rfl, by decide, rfl, by decide⟩, ⟨_, _, rfl, by decide, rfl, by decide⟩⟩

theorem witness_PinErrorsInTransactionsAreAbsorbed :
    Instr.rdraw ≠ .init ∧ (∀ k, k < 4 → good.csAt k ≠ none) ∧
    (∀ k, k < 4 → ({ good with csPort := { script := List.replicate 4 (some (.pinErr ⟨1⟩)), asked := 0 } } : State).csAt k ≠ none) := by
  decide

theorem witness_StepKeepsTheFramingInvariant :
    FramingInv { good with commands := [encode .rdraw] } ∧ ∃ t, step { good with commands := [encode .rdraw] } = .next t :=
  ⟨⟨.closed, rfl, .inl rfl⟩, _, rfl⟩

/-- A block that HOLD left with its window open: its last transaction ended in a bus error. -/
def held : State :=
  { holding good with csReq := .low, history := [.csDrive .high (some (.ok ())), .csDrive .low (some (.ok ())), .busWrite [0x80, 0] (some (.busErr ⟨7⟩))] }

theorem witness_ReadyIdleBlockRequestsHighUnlessHeld : FramingInv held ∧ held.phase = .idle ∧ held.life = .ready ∧ held.csReq ≠ .high :=
  ⟨⟨.held, rfl, rfl, rfl⟩, rfl, rfl, by decide⟩

/-- A step with a bus error among its events, one with requests of the chip-select pin answered either way, one with none. -/
theorem witness_BusErrorEndsTheCommandsBusActivity :
    ∃ t, step { broken with commands := [encode .rdconv] } = .next t ∧ (t.history.drop 1)[1]?.bind Event.busErrorOf = some ⟨7⟩ :=
  ⟨_, rfl, by decide⟩

theorem witness_ChipSelectFollowsTheLastRequest :
    (∃ t, step { good with commands := [encode (.write .config 0)] } = .next t ∧ lastDrive (t.history.drop 1) = some (.high, some (.ok ()))) ∧
    (∃ t, step { fresh (some (.pinErr ⟨3⟩)) with commands := [encode .init] } = .next t ∧ lastDrive t.history = some (.high, some (.pinErr ⟨3⟩))) ∧
    (∃ t, step { good with commands := [encode .isrdy] } = .next t ∧ lastDrive (t.history.drop 1) = none) :=
  ⟨⟨_, rfl, by decide⟩, ⟨_, rfl, by decide⟩, ⟨_, rfl, by decide⟩⟩

theorem witness_SomeCommandsMakeNoBusAccess :
    ∀ i ∈ [Instr.init, .setcal 0, .isrdy, .encaddr .config .read, .convert 0], ∃ t, exec i good = .next t :=
  fun i _ => (exec_effect i good).imp fun _ h => h.1

theorem witness_OnlyTheirWritersChangeCalAndLife :
    (∃ t, exec (.setcal 0) good = .next t ∧ t.cal ≠ good.cal) ∧
    (∃ t, exec .init (fresh (some (.ok ()))) = .next t ∧ t.cal ≠ (fresh (some (.ok ()))).cal ∧ t.life ≠ (fresh (some (.ok ()))).life) :=
  ⟨⟨_, rfl, by decide⟩, ⟨_, rfl, by decide⟩⟩

theorem witness_StepRunsTheDecodedCommand : good.phase = .idle ∧ decode (encode .isrdy) = .ok .isrdy := by decide

theorem witness_BusyBlockStaysStuck : ({ silent with phase := .busy } : State).phase = .busy := by decide

theorem witness_CommandHangsExactlyWhenUnanswered :
    (∃ t, exec (.write .config 0) silent = .next t ∧ t.phase = .busy) ∧ (∃ t, exec (.write .config 0) good = .next t ∧ t.phase ≠ .busy) :=
  ⟨⟨_, rfl, by decide⟩, ⟨_, rfl, by decide⟩⟩

theorem witness_AnsweredCommandsRespond : AnswersNext good (6 + 0) ∧ good.phase = .idle := by
  unfold AnswersNext; decide

theorem witness_AnsweredRunsEnd :
    AnswersNext { good with commands := [encode .rdconv] } (6 * 1) ∧ good.phase = .idle := by
  unfold AnswersNext; decide

theorem witness_CalIsUnobservableBeforeInit :
    (fresh (some (.ok ()))).life = .uninit ∧ ∃ t, step { fresh (some (.ok ())) with commands := [encode .init] } = .next t ∧ t.life = .ready :=
  ⟨by decide, _, rfl, by decide⟩

theorem witness_PowerOnBlockAwaitsInit :
    decode (encode .rdraw) = .ok .rdraw ∧ Instr.rdraw ≠ .init ∧ ∀ reg dir, Instr.rdraw ≠ .encaddr reg dir :=
  ⟨by decide, by decide, by intro _ _ h; cases h⟩

/-- `good` has six scripted answers at each port, also with payloads of two other types. -/
theorem witness_PayloadTypesAreArguments :
    Scripted good 6 ∧ Scripted (good.mapPayload (fun e => e.code % 2 == 0) fun _ => ()) 6 := by
  unfold Scripted; decide

end Sys2Proof.Tests
end

section
/-! PROOFS. Replacing payloads commutes with the block (00_scope.md R6, 92_eei_decisions.md D31): one commuting lemma per shared operation, from the ports up to the step. The only premise is that the answers an operation takes are scripted, since a free draw of one payload type says nothing of a free draw of another. -/

namespace Sys2Proof.Machine

variable {E P E' P' : Type} (f : E → E') (g : P → P')

/-! ### Scripts -/

theorem Scripted.mono {s : State.Of E P} {m n : Nat} (hs : Scripted s n) (hmn : m ≤ n) : Scripted s m := by
  obtain ⟨hc, hw, hx, hd⟩ := hs
  exact ⟨hmn.trans hc, hmn.trans hw, hmn.trans hx, hmn.trans hd⟩

/-- After `n` events the answers that lay beyond those still stand in the scripts. -/
theorem Scripted.advance {s s' : State.Of E P} {m n : Nat} (hs : Scripted s (n + m)) (h : PortsAdvance n s s') :
    Scripted s' m := by
  obtain ⟨a, b, c, d, hn, ha, hb, hc, hd⟩ := h
  obtain ⟨hcs, hw, hx, hr⟩ := hs
  unfold Scripted
  rw [ha, hb, hc, hd]
  simp only [Port.skip, List.length_drop]
  omega

/-- `Scripted.advance` for a piece of a command that makes at most `n` events. -/
theorem Scripted.after {s s' : State.Of E P} {es : List (Event E P)} {m n : Nat} (hs : Scripted s (n + m))
    (h : After s s' es) (hn : es.length ≤ n) : Scripted s' m :=
  (hs.mono (Nat.add_le_add_right hn m)).advance h.ports

/-! ### The four external events -/

@[simp] theorem Port.map_asked {α β : Type} (h : α → β) (p : Port α) : (p.map h).asked = p.asked := rfl

@[simp] theorem lineAfter_mapPayload (l draw : Level) (a : Option (PinAnswer Unit P)) :
    lineAfter l draw (a.map (PinAnswer.mapPayload g)) = lineAfter l draw a := by
  rcases a with _ | _ | _ <;> rfl

@[simp] theorem received_mapPayload (tx : List Byte) (a : BusAnswer RxBytes E) :
    received tx (a.mapPayload f) = (received tx a).mapPayload f := by
  cases a <;> rfl

@[simp] theorem deasserts_mapPayload {α : Type} (p : CsPolicy) (a : BusAnswer α E) :
    deasserts p (a.mapPayload f) = deasserts p a := by
  cases a <;> rfl

@[simp] theorem readyBit_mapPayload (a : PinAnswer Level P) : readyBit (a.mapPayload g) = readyBit a := by
  rcases a with (_ | _) | _ <;> rfl

/-- A pin event's answer and next state with every payload replaced. -/
def mapPin {α : Type} (x : Option (PinAnswer α P) × State.Of E P) : Option (PinAnswer α P') × State.Of E' P' :=
  (x.1.map (PinAnswer.mapPayload g), x.2.mapPayload f g)

/-- The answer and the next state of a bus event or of a procedure around one, with every payload replaced. -/
def mapBus {α : Type} (x : Option (BusAnswer α E) × State.Of E P) : Option (BusAnswer α E') × State.Of E' P' :=
  (x.1.map (BusAnswer.mapPayload f), x.2.mapPayload f g)

variable {s : State.Of E P}

theorem csDrive_mapPayload (l : Level) (hs : Scripted s 1) :
    csDrive l (s.mapPayload f g) = mapPin f g (csDrive l s) := by
  obtain ⟨hcs, -⟩ := hs
  have answer : (s.mapPayload f g).csAt 0 = (s.csAt 0).map (PinAnswer.mapPayload g) :=
    Port.reply_map _ _ _ _ _ hcs
  rw [csDrive, answer]
  simp [mapPin, csDrive, State.Of.mapPayload, Event.mapPayload]

theorem busWrite_mapPayload (tx : List Byte) (hs : Scripted s 1) :
    busWrite tx (s.mapPayload f g) = mapBus f g (busWrite tx s) := by
  obtain ⟨-, hw, -⟩ := hs
  have answer : (s.mapPayload f g).writeAt 0 = (s.writeAt 0).map (BusAnswer.mapPayload f) :=
    Port.reply_map _ _ _ _ _ hw
  rw [busWrite, answer]
  simp [mapBus, busWrite, State.Of.mapPayload, Event.mapPayload]

theorem busXfer_mapPayload (tx : List Byte) (hs : Scripted s 1) :
    busXfer tx (s.mapPayload f g) = mapBus f g (busXfer tx s) := by
  obtain ⟨-, -, hx, -⟩ := hs
  have answer : (s.mapPayload f g).xferAt 0 = (s.xferAt 0).map (BusAnswer.mapPayload f) :=
    Port.reply_map _ _ _ _ _ hx
  rw [busXfer, answer]
  simp [mapBus, busXfer, State.Of.mapPayload, Event.mapPayload, Function.comp_def]

theorem drdyRead_mapPayload (hs : Scripted s 1) :
    drdyRead (s.mapPayload f g) = mapPin f g (drdyRead s) := by
  obtain ⟨-, -, -, hd⟩ := hs
  have answer : (s.mapPayload f g).drdyAt 0 = (s.drdyAt 0).map (PinAnswer.mapPayload g) :=
    Port.reply_map _ _ _ _ _ hd
  rw [drdyRead, answer]
  simp [mapPin, drdyRead, State.Of.mapPayload, Event.mapPayload]

/-! ### FRAME and READ_RAW -/

/-- FRAME commutes when its bus primitive does and takes one answer. -/
theorem frame_mapPayload {α : Type} {prim : State.Of E P → Option (BusAnswer α E) × State.Of E P}
    {prim' : State.Of E' P' → Option (BusAnswer α E') × State.Of E' P'}
    (hprim : ∀ {s}, Scripted s 1 → prim' (s.mapPayload f g) = mapBus f g (prim s))
    (hports : ∀ s, PortsAdvance 1 s (prim s).2) (hs : Scripted s 3) :
    frame prim' (s.mapPayload f g) = mapBus f g (frame prim s) := by
  have asserted : Scripted (csDrive .low s).2 2 := hs.after (n := 1) (csDrive_after .low s) le_rfl
  unfold frame
  rw [csDrive_mapPayload f g .low (hs.mono (by decide))]
  rcases hlow : csDrive .low s with ⟨_ | lo, s₁⟩
  · rfl
  rw [hlow] at asserted
  have transferred : Scripted (prim s₁).2 1 := asserted.advance (n := 1) (hports s₁)
  simp only [mapPin, Option.map_some]
  rw [hprim (asserted.mono (by decide))]
  rcases hbus : prim s₁ with ⟨_ | r, s₂⟩
  · rfl
  rw [hbus] at transferred
  simp only [mapBus, Option.map_some, mapPayload_params, deasserts_mapPayload]
  cases deasserts s.params.csOnXferError r with
  | false => rfl
  | true =>
    simp only [csDrive_mapPayload f g .high transferred]
    rcases csDrive .high s₂ with ⟨_ | hi, s₃⟩ <;> rfl

theorem frame_busWrite_mapPayload (tx : List Byte) (hs : Scripted s 3) :
    frame (busWrite tx) (s.mapPayload f g) = mapBus f g (frame (busWrite tx) s) :=
  frame_mapPayload f g (busWrite_mapPayload f g tx) (fun s => (busWrite_after tx s).ports) hs

theorem frame_busXfer_mapPayload (tx : List Byte) (hs : Scripted s 3) :
    frame (busXfer tx) (s.mapPayload f g) = mapBus f g (frame (busXfer tx) s) :=
  frame_mapPayload f g (busXfer_mapPayload f g tx) (fun s => (busXfer_after tx s).ports) hs

theorem readRegister_mapPayload (reg : RegId) (hs : Scripted s 3) :
    readRegister reg (s.mapPayload f g) = mapBus f g (readRegister reg s) := by
  unfold readRegister
  rw [mapPayload_params, frame_busXfer_mapPayload f g _ hs]
  rcases frame (busXfer [readAddress s.params reg, 0x00]) s with ⟨_ | _ | _, s'⟩ <;> rfl

theorem readRaw_mapPayload (hs : Scripted s 6) : readRaw (s.mapPayload f g) = mapBus f g (readRaw s) := by
  obtain ⟨es, hafter, hlen, -⟩ := readRegister_after .rtdMsb s
  have second : Scripted (readRegister .rtdMsb s).2 3 := hs.after (n := 3) hafter hlen
  unfold readRaw
  rw [readRegister_mapPayload f g .rtdMsb (hs.mono (by decide))]
  rcases hmsb : readRegister .rtdMsb s with ⟨_ | msb | _, s₁⟩
  · rfl
  · rw [hmsb] at second
    simp only [mapBus, Option.map_some, BusAnswer.mapPayload]
    rw [readRegister_mapPayload f g .rtdLsb second]
    rcases readRegister .rtdLsb s₁ with ⟨_ | _ | _, s₂⟩ <;> rfl
  · rfl

/-! ### The commands' own procedures -/

theorem convertResponse_mapPayload (c : ConvResult) :
    (convertResponse c : Response E P).mapPayload f g = convertResponse c := by
  cases c <;> rfl

theorem rdconvResponse_mapPayload (c : ConvResult) :
    (rdconvResponse c : Response E P).mapPayload f g = rdconvResponse c := by
  cases c <;> rfl

theorem respond_mapPayload (r : Response E P) (s : State.Of E P) :
    (respond r s).mapPayload f g = respond (r.mapPayload f g) (s.mapPayload f g) := rfl

/-- The NOT_INIT check looks at LIFE alone (R205). -/
theorem requireInit_mapPayload {k : State.Of E P → State.Of E P} {k' : State.Of E' P' → State.Of E' P'}
    (hk : k' (s.mapPayload f g) = (k s).mapPayload f g) :
    requireInit k' (s.mapPayload f g) = (requireInit k s).mapPayload f g := by
  unfold requireInit
  rw [mapPayload_life]
  cases s.life with
  | uninit => rfl
  | ready => exact hk

theorem writeTransaction_mapPayload (tx : List Byte) (hs : Scripted s 3) :
    writeTransaction tx (s.mapPayload f g) = (writeTransaction tx s).mapPayload f g := by
  unfold writeTransaction
  rw [frame_busWrite_mapPayload f g tx hs]
  rcases frame (busWrite tx) s with ⟨_ | _ | _, s'⟩ <;> rfl

theorem readTransaction_mapPayload (reg : RegId) (n : Fin 16) (hs : Scripted s 3) :
    readTransaction reg n (s.mapPayload f g) = (readTransaction reg n s).mapPayload f g := by
  unfold readTransaction
  rw [mapPayload_params, frame_busXfer_mapPayload f g _ hs]
  rcases frame (busXfer (readnTx s.params reg n)) s with ⟨_ | _ | _, s'⟩ <;> rfl

theorem construct_mapPayload (hs : Scripted s 1) :
    construct (s.mapPayload f g) = (construct s).mapPayload f g := by
  unfold construct
  rw [csDrive_mapPayload f g .high hs]
  rcases csDrive .high s with ⟨_ | _ | _, s'⟩ <;> rfl

theorem sampleReady_mapPayload (hs : Scripted s 1) :
    sampleReady (s.mapPayload f g) = (sampleReady s).mapPayload f g := by
  unfold sampleReady
  rw [drdyRead_mapPayload f g hs]
  rcases drdyRead s with ⟨_ | a, s'⟩
  · rfl
  · simp only [mapPin, Option.map_some, readyBit_mapPayload]
    rfl

theorem reportRaw_mapPayload (hs : Scripted s 6) :
    reportRaw (s.mapPayload f g) = (reportRaw s).mapPayload f g := by
  unfold reportRaw
  rw [readRaw_mapPayload f g hs]
  rcases readRaw s with ⟨_ | _ | _, s'⟩ <;> rfl

theorem readAndConvert_mapPayload (hs : Scripted s 6) :
    readAndConvert (s.mapPayload f g) = (readAndConvert s).mapPayload f g := by
  unfold readAndConvert
  rw [readRaw_mapPayload f g hs]
  rcases readRaw s with ⟨_ | raw | _, s'⟩
  · rfl
  · simp only [mapBus, Option.map_some, BusAnswer.mapPayload, mapPayload_params, mapPayload_cal,
      respond_mapPayload, rdconvResponse_mapPayload]
  · rfl

/-! ### One command and one step -/

theorem execAt_mapPayload (i : Instr) (hs : Scripted s 6) :
    ∃ t, execAt i s = .next t ∧ execAt i (s.mapPayload f g) = .next (t.mapPayload f g) := by
  have window : Scripted s 3 := hs.mono (by decide)
  have one : Scripted s 1 := hs.mono (by decide)
  cases i with
  | encaddr reg dir => exact ⟨_, rfl, rfl⟩
  | write reg val =>
    exact ⟨_, rfl, congrArg Host.Outcome.next (requireInit_mapPayload f g (writeTransaction_mapPayload f g _ window))⟩
  | readn reg n =>
    refine ⟨_, rfl, congrArg Host.Outcome.next ?_⟩
    split
    · rfl
    · exact requireInit_mapPayload f g (readTransaction_mapPayload f g reg n window)
  | init => exact ⟨_, rfl, congrArg Host.Outcome.next (construct_mapPayload f g one)⟩
  | config vbias mode oneshot wiring filter =>
    exact ⟨_, rfl, congrArg Host.Outcome.next (requireInit_mapPayload f g (writeTransaction_mapPayload f g _ window))⟩
  | setcal cal => exact ⟨_, rfl, congrArg Host.Outcome.next (requireInit_mapPayload f g rfl)⟩
  | isrdy => exact ⟨_, rfl, congrArg Host.Outcome.next (requireInit_mapPayload f g (sampleReady_mapPayload f g one))⟩
  | rdraw => exact ⟨_, rfl, congrArg Host.Outcome.next (requireInit_mapPayload f g (reportRaw_mapPayload f g hs))⟩
  | rdconv => exact ⟨_, rfl, congrArg Host.Outcome.next (requireInit_mapPayload f g (readAndConvert_mapPayload f g hs))⟩
  | convert raw =>
    refine ⟨_, rfl, congrArg Host.Outcome.next (requireInit_mapPayload f g ?_)⟩
    rw [respond_mapPayload, convertResponse_mapPayload]
    rfl

theorem stepAt_mapPayload (hs : Scripted s 6) :
    ∃ t, stepAt s = .next t ∧ stepAt (s.mapPayload f g) = .next (t.mapPayload f g) := by
  unfold stepAt nextCommand
  rw [mapPayload_phase, mapPayload_commands]
  cases s.phase with
  | busy => exact ⟨s, rfl, rfl⟩
  | idle =>
    cases s.commands with
    | nil => exact ⟨s, rfl, rfl⟩
    | cons c rest =>
      dsimp only
      unfold runCommand
      cases decode c with
      | ok i => exact execAt_mapPayload f g i (s := accept rest s) hs
      | error _ => exact ⟨_, rfl, rfl⟩

theorem exec_eq_execAt (i : Instr) (s : State) : exec i s = execAt i s := by
  cases i <;> rfl

theorem step_eq_stepAt (s : State) : step s = stepAt s := by
  have meanings : exec = execAt := funext₂ exec_eq_execAt
  rw [step, stepAt, meanings]

/-- Settles O51: the host's block is the any-type block at its two types, and that block's commands and steps commute with replacing payloads, operation by operation. -/
theorem payloadTypesAreArguments : Obligations.PayloadTypesAreArguments :=
  ⟨exec_eq_execAt, step_eq_stepAt, fun _ _ _ _ f g _ hs =>
    ⟨fun i => execAt_mapPayload f g i hs, stepAt_mapPayload f g hs⟩⟩

end Sys2Proof.Machine
end

section
/-! PROOFS. The block's state (10_state.md): what a step does in each phase (R26), who writes each state item (R22 to R25), how the framing invariant bounds CS_REQ (R24), and what an UNINIT block cannot show (R37). -/

namespace Sys2Proof.Machine

/-! ### A step in each phase (R26) -/

theorem step_of_busy {s : State} (h : s.phase = .busy) : step s = .next s := by
  simp only [step, nextCommand, h]

theorem step_of_idle {s : State} {c : Command} {rest : List Command} (hp : s.phase = .idle) (hc : s.commands = c :: rest) :
    step s = runCommand exec c (accept rest s) := by
  simp only [step, nextCommand, hp, hc]

theorem step_of_no_command {s : State} (h : s.commands = []) : step s = .next s := by
  cases hp : s.phase with
  | busy => exact step_of_busy hp
  | idle => simp only [step, nextCommand, hp, h]

theorem runCommand_of_decode_error {c : Command} {e : Illegal} (h : decode c = .error e) (s : State) :
    runCommand exec c s = .next (raise .illegal .none s) := by
  simp only [runCommand, h]

theorem runCommand_of_decode_ok {c : Command} {i : Instr} (h : decode c = .ok i) (s : State) : runCommand exec c s = exec i s := by
  simp only [runCommand, h]

/-- Settles O43: the step is the decoded command on the accepted state. -/
theorem stepRunsTheDecodedCommand : Obligations.StepRunsTheDecodedCommand := fun s _ rest _ hp hc hd =>
  (step_of_idle hp hc).trans (runCommand_of_decode_ok hd (accept rest s))

theorem run_succ_of_next {M : Host.Core} {s t : M.State} (k : Nat) (h : M.step s = .next t) : M.run (k + 1) s = M.run k t := by
  simp only [Host.Core.run, h]

/-- Settles O45, by induction on the number of steps: each of them leaves a BUSY state as it is. -/
theorem busyBlockStaysStuck : Obligations.BusyBlockStaysStuck := by
  intro k s hs
  induction k with
  | zero => rfl
  | succ k ih => exact (run_succ_of_next (M := core) k (step_of_busy hs)).trans ih

/-! ### What each command writes (R22 to R25) -/

/-- A command of FRAMEs is its events and then an ending that writes PHASE and the response only. -/
theorem Ended.after {α : Type} {s t : State} {good : α → Response BusError PinError} (h : Ended s good t) :
    ∃ s' es, After s s' es ∧ t = { s' with phase := t.phase, resp := t.resp } := by
  cases h with
  | hung a _ _ => exact ⟨_, _, a, rfl⟩
  | done _ a _ _ => exact ⟨_, _, a, rfl⟩
  | failed _ a _ _ => exact ⟨_, _, a, rfl⟩

theorem Ended.cal_life {α : Type} {s t : State} {good : α → Response BusError PinError} (h : Ended s good t) :
    t.cal = s.cal ∧ t.life = s.life := by
  obtain ⟨s', es, ha, ht⟩ := h.after
  exact ⟨(congrArg State.Of.cal ht).trans ha.cal, (congrArg State.Of.life ht).trans ha.life⟩

/-- Any command is its events and then an ending that writes PHASE, the response, CAL and LIFE only. -/
theorem Effect.after {i : Instr} {s t : State} (h : Effect s i t) :
    ∃ s' es, After s s' es ∧ t = { s' with phase := t.phase, resp := t.resp, cal := t.cal, life := t.life } := by
  have framed {α : Type} {good : α → Response BusError PinError} {t : State} (h : Ended s good t) :
      ∃ s' es, After s s' es ∧ t = { s' with phase := t.phase, resp := t.resp, cal := t.cal, life := t.life } := by
    obtain ⟨s', es, ha, ht⟩ := h.after
    exact ⟨s', es, ha, by rw [ht]⟩
  cases h with
  | encaddr _ _ => exact ⟨s, _, .refl s, rfl⟩
  | zeroCount _ => exact ⟨s, _, .refl s, rfl⟩
  | noInstance _ _ _ _ => exact ⟨s, _, .refl s, rfl⟩
  | write _ _ _ h => exact framed h
  | readn _ _ _ _ h => exact framed h
  | config _ _ _ _ _ _ h => exact framed h
  | initHung _ => exact ⟨_, _, csDrive_after .high s, rfl⟩
  | initOk _ _ => exact ⟨_, _, csDrive_after .high s, rfl⟩
  | initErr _ _ => exact ⟨_, _, csDrive_after .high s, rfl⟩
  | setcal _ _ => exact ⟨s, _, .refl s, rfl⟩
  | isrdyHung _ _ => exact ⟨_, _, drdyRead_after s, rfl⟩
  | isrdyOk _ _ _ => exact ⟨_, _, drdyRead_after s, rfl⟩
  | rdraw _ h => exact framed h
  | rdconv _ h => exact framed h
  | convert _ _ => exact ⟨s, _, .refl s, rfl⟩

/-- INIT leaves CAL or writes the default, SETCAL writes its operand to CAL and leaves LIFE, and every other command leaves both. -/
theorem Effect.cal_life {i : Instr} {s t : State} (h : Effect s i t) :
    (i = .init ∧ (t.cal = s.cal ∨ t.cal = defaultCal)) ∨ (i = .setcal t.cal ∧ t.life = s.life) ∨
    (t.cal = s.cal ∧ t.life = s.life) := by
  cases h with
  | encaddr _ _ => exact .inr (.inr ⟨rfl, rfl⟩)
  | zeroCount _ => exact .inr (.inr ⟨rfl, rfl⟩)
  | noInstance _ _ _ _ => exact .inr (.inr ⟨rfl, rfl⟩)
  | write _ _ _ h => exact .inr (.inr h.cal_life)
  | readn _ _ _ _ h => exact .inr (.inr h.cal_life)
  | config _ _ _ _ _ _ h => exact .inr (.inr h.cal_life)
  | initHung _ => exact .inl ⟨rfl, .inl rfl⟩
  | initOk _ _ => exact .inl ⟨rfl, .inr rfl⟩
  | initErr _ _ => exact .inl ⟨rfl, .inl rfl⟩
  | setcal _ _ => exact .inr (.inl ⟨rfl, rfl⟩)
  | isrdyHung _ _ => exact .inr (.inr ⟨rfl, rfl⟩)
  | isrdyOk _ _ _ => exact .inr (.inr ⟨rfl, rfl⟩)
  | rdraw _ h => exact .inr (.inr h.cal_life)
  | rdconv _ h => exact .inr (.inr h.cal_life)
  | convert _ _ => exact .inr (.inr ⟨rfl, rfl⟩)

/-- Settles O42: the writers by Effect.cal_life, the frame by Effect.after. -/
theorem onlyTheirWritersChangeCalAndLife : Obligations.OnlyTheirWritersChangeCalAndLife := by
  intro i s t h
  have effect := exec_inv h
  obtain ⟨s', es, ha, ht⟩ := effect.after
  refine ⟨fun hcal => ?_, fun hlife => ?_, (congrArg State.Of.params ht).trans ha.params,
    (congrArg State.Of.commands ht).trans ha.commands⟩
  · rcases effect.cal_life with ⟨hi, same | default⟩ | ⟨hi, -⟩ | ⟨same, -⟩
    · exact absurd same hcal
    · exact .inl ⟨hi, default⟩
    · exact .inr hi
    · exact absurd same hcal
  · rcases effect.cal_life with ⟨hi, -⟩ | ⟨-, same⟩ | ⟨-, same⟩
    · exact hi
    · exact absurd same hlife
    · exact absurd same hlife

/-- A step is an acceptance, the events of its command and an ending; acceptance and ending write no field on the chip's side. -/
theorem step_after {s t : State} (h : step s = .next t) :
    ∃ s₀ s' es, After s₀ s' es ∧ s₀ = { s with phase := s₀.phase, commands := s₀.commands, resp := s₀.resp } ∧
      t = { s' with phase := t.phase, resp := t.resp, cal := t.cal, life := t.life } := by
  rcases step_inv h with ⟨rfl, -⟩ | ⟨c, rest, -, -, ⟨_, -, rfl⟩ | ⟨i, -, hi⟩⟩
  · exact ⟨t, t, [], .refl t, rfl, rfl⟩
  · exact ⟨accept rest s, accept rest s, [], .refl _, rfl, rfl⟩
  · obtain ⟨s', es, ha, ht⟩ := (exec_inv hi).after
    exact ⟨accept rest s, s', es, ha, rfl, ht⟩

/-- Settles O41: After says it of the events, and the rest of a step leaves CS_REQ and the line. -/
theorem chipSelectFollowsTheLastRequest : Obligations.ChipSelectFollowsTheLastRequest := by
  intro s t h
  obtain ⟨s₀, s', es, ha, hs₀, ht⟩ := step_after h
  have history : t.history = s.history ++ es := by rw [ht, ha.history, hs₀]
  have csReq : t.csReq = s'.csReq := by rw [ht]
  have csLine : t.csLine = s'.csLine := by rw [ht]
  have csReq₀ : s₀.csReq = s.csReq := by rw [hs₀]
  have csLine₀ : s₀.csLine = s.csLine := by rw [hs₀]
  refine ⟨es, history, ?_, ?_⟩
  · rw [csReq, csLine, ← csReq₀, ← csLine₀]
    exact ha.quiet
  · rw [csReq, csLine]
    exact ha.request

/-! ### The framing invariant and CS_REQ (R24, R249) -/

/-- Settles O37: the history is empty, so the place is closed, and CS_REQ is UNKNOWN while UNINIT. -/
theorem resetMeetsTheFramingInvariant : Obligations.ResetMeetsTheFramingInvariant :=
  ⟨.closed, rfl, .inr ⟨rfl, rfl⟩⟩

variable {E P : Type}

/-- A bus answer leaves a window held only when it is an error under HOLD. -/
theorem afterBus_eq_held {α : Type} {p : CsPolicy} {a : Option (BusAnswer α E)} (h : Window.afterBus p a = .held) :
    p = .hold ∧ ∃ e, a = some (.busErr e) := by
  rcases a with _ | _ | e
  · cases h
  · cases h
  · cases p with
    | deassert => cases h
    | hold => exact ⟨rfl, e, rfl⟩

/-- The automaton comes to the held place by a ready-pin read there, or by a bus error under HOLD. -/
theorem next_eq_held {p : CsPolicy} {w : Window} {e : Event E P} (h : Window.next p w e = some .held) :
    (w = .held ∧ e.isDrdyRead = true) ∨ (p = .hold ∧ e.busErrorOf.isSome = true) := by
  cases w with
  | held =>
    rcases e with ⟨_ | _, _ | _⟩ | _ | _ | _
    case drdyRead => exact .inl ⟨rfl, rfl⟩
    all_goals cases h
  | asserted =>
    cases e with
    | busWrite _ _ =>
      obtain ⟨hp, _, rfl⟩ := afterBus_eq_held (Option.some.inj h)
      exact .inr ⟨hp, rfl⟩
    | busXfer _ _ =>
      obtain ⟨hp, _, rfl⟩ := afterBus_eq_held (Option.some.inj h)
      exact .inr ⟨hp, rfl⟩
    | csDrive _ _ => cases h
    | drdyRead _ => cases h
  | closed => rcases e with ⟨_ | _, _ | _⟩ | _ | _ | (_ | _) <;> cases h
  | transferred => rcases e with ⟨_ | _, _ | _⟩ | _ | _ | _ <;> cases h
  | hung => cases h

/-- A history that stands at the held place ends, but for ready-pin reads, with a bus error under HOLD. -/
theorem scan_eq_held {p : CsPolicy} {es : List (Event E P)} (h : Window.scan p .closed es = some .held) :
    p = .hold ∧ ∃ pre e post, es = pre ++ e :: post ∧ e.busErrorOf.isSome = true ∧ ∀ x ∈ post, x.isDrdyRead = true := by
  induction es using List.reverseRecOn with
  | nil => cases h
  | append_singleton es last ih =>
    rw [scan_append] at h
    obtain ⟨w, hw, hlast⟩ := Option.bind_eq_some_iff.mp h
    have hnext : Window.next p w last = some .held := by
      cases hn : Window.next p w last with
      | none => simp [Window.scan, hn] at hlast
      | some w' => rwa [Window.scan_cons _ hn] at hlast
    rcases next_eq_held hnext with ⟨rfl, hread⟩ | ⟨hp, herr⟩
    · obtain ⟨hp, pre, e, post, rfl, herr, hpost⟩ := ih hw
      refine ⟨hp, pre, e, post ++ [last], by simp, herr, fun x hx => ?_⟩
      rcases List.mem_append.mp hx with hx | hx
      · exact hpost x hx
      · rwa [List.mem_singleton.mp hx]
    · exact ⟨hp, es, last, [], rfl, herr, by simp⟩

/-- Settles O38: in a READY block whose CS_REQ is not HIGH, the invariant leaves only the held place. -/
theorem readyIdleBlockRequestsHighUnlessHeld : Obligations.ReadyIdleBlockRequestsHighUnlessHeld := by
  intro s ⟨w, hscan, hw⟩ hphase hlife hreq
  rw [hphase] at hw
  cases w with
  | closed =>
    rcases hw with high | ⟨-, uninit⟩
    · exact absurd high hreq
    · cases hlife.symm.trans uninit
  | held => exact ⟨hw.1, scan_eq_held hscan⟩
  | asserted => exact hw.elim
  | transferred => exact hw.elim
  | hung => exact hw.elim

/-! ### An UNINIT block (R37, R205) -/

theorem requireInit_of_uninit {s : State.Of E P} (h : s.life = .uninit) (k : State.Of E P → State.Of E P) :
    requireInit k s = raise .notInit .none s := by
  simp only [requireInit, h]

theorem requireInit_of_ready {s : State.Of E P} (h : s.life = .ready) (k : State.Of E P → State.Of E P) :
    requireInit k s = k s := by
  simp only [requireInit, h]

/-- In an UNINIT block every command but INIT and ENCADDR is refused: E_ILLEGAL for the ill-formed term, before E_NOT_INIT (R210). -/
theorem exec_of_uninit {i : Instr} {s : State} (hl : s.life = .uninit) (hi : i ≠ .init) (he : ∀ reg dir, i ≠ .encaddr reg dir) :
    exec i s = .next (raise (if i.wellFormed then .notInit else .illegal) .none s) := by
  have refused (k : State → State) : (.next (requireInit k s) : Host.Outcome State Fault Refusal) = .next (raise .notInit .none s) :=
    congrArg _ (requireInit_of_uninit hl k)
  cases i with
  | encaddr reg dir => exact absurd rfl (he reg dir)
  | init => exact absurd rfl hi
  | readn reg n =>
    by_cases hn : n = 0
    · subst hn; rfl
    · simp [exec, execReadn, Instr.wellFormed, hn, requireInit_of_uninit hl]
  | write _ _ => exact refused _
  | config _ _ _ _ _ => exact refused _
  | setcal _ => exact refused _
  | isrdy => exact refused _
  | rdraw => exact refused _
  | rdconv => exact refused _
  | convert _ => exact refused _

/-- The decoder gives well-formed terms only: READN with n = 0 is an illegal encoding (R81 item 3). -/
theorem wellFormed_of_decode {c : Command} {i : Instr} (h : decode c = .ok i) : i.wellFormed = true := by
  unfold decode at h
  split at h
  case h_3 => -- READN
    obtain ⟨-, hr⟩ := unlessReserved_eq_ok h
    obtain ⟨hn, rfl⟩ := readnOf_eq_ok hr
    simpa [Instr.wellFormed] using hn
  case h_10 => -- CONVERT
    obtain ⟨-, hr⟩ := unlessReserved_eq_ok h
    obtain ⟨-, rfl⟩ := convertOf_eq_ok hr
    rfl
  case h_11 => cases h -- no command has the opcode
  all_goals
    obtain ⟨-, hr⟩ := unlessReserved_eq_ok h
    cases hr
    rfl

/-- Settles O50: the values by definition, and the first command by exec_of_uninit on the state it is accepted in. -/
theorem powerOnBlockAwaitsInit : Obligations.PowerOnBlockAwaitsInit := by
  refine ⟨rfl, rfl, rfl, rfl, rfl, fun c i hd hi he => ?_⟩
  rw [step_of_idle rfl rfl, runCommand_of_decode_ok hd, exec_of_uninit rfl hi he, wellFormed_of_decode hd]
  rfl

/-- INIT does not read CAL: with another CAL it leaves that CAL and stays UNINIT, or leaves the very same state. -/
theorem construct_withCal {s : State.Of E P} (cal : Calibration) (hl : s.life = .uninit) :
    ((construct s).life = .uninit ∧ construct { s with cal := cal } = { construct s with cal := cal }) ∨
    construct { s with cal := cal } = construct s := by
  have drive : csDrive .high { s with cal := cal } = ((csDrive .high s).1, { (csDrive .high s).2 with cal := cal }) := rfl
  have uninit : (csDrive .high s).2.life = .uninit := hl
  unfold construct
  rw [drive]
  rcases hd : csDrive .high s with ⟨_ | _ | _, s'⟩
  · rw [hd] at uninit
    exact .inl ⟨uninit, rfl⟩
  · exact .inr rfl
  · exact .inl ⟨rfl, rfl⟩

/-- No command of an UNINIT block reads CAL: INIT by construct_withCal, ENCADDR by its arm, and the others are refused. -/
theorem exec_withCal {i : Instr} {s t : State} (cal : Calibration) (hl : s.life = .uninit) (h : exec i s = .next t) :
    (t.life = .uninit ∧ exec i { s with cal := cal } = .next { t with cal := cal }) ∨ exec i { s with cal := cal } = .next t := by
  by_cases hi : i = .init
  · subst hi
    cases h
    exact (construct_withCal cal hl).imp (.imp_right (congrArg Host.Outcome.next)) (congrArg Host.Outcome.next)
  by_cases he : ∃ reg dir, i = .encaddr reg dir
  · obtain ⟨reg, dir, rfl⟩ := he
    cases h
    exact .inl ⟨hl, rfl⟩
  have he : ∀ reg dir, i ≠ .encaddr reg dir := fun reg dir h => he ⟨reg, dir, h⟩
  rw [exec_of_uninit hl hi he] at h
  cases h
  exact .inl ⟨hl, exec_of_uninit hl hi he⟩

/-- A waiting block and an illegal command leave CAL as it is; a command is exec_withCal on the accepted state. -/
theorem step_withCal {s t : State} (cal : Calibration) (hl : s.life = .uninit) (h : step s = .next t) :
    (t.life = .uninit ∧ step { s with cal := cal } = .next { t with cal := cal }) ∨ step { s with cal := cal } = .next t := by
  rcases step_inv h with ⟨rfl, busy | empty⟩ | ⟨c, rest, hp, hc, ⟨_, hd, rfl⟩ | ⟨i, hd, hi⟩⟩
  · exact .inl ⟨hl, step_of_busy busy⟩
  · exact .inl ⟨hl, step_of_no_command empty⟩
  · exact .inl ⟨hl, (step_of_idle (s := { s with cal := cal }) hp hc).trans (runCommand_of_decode_error hd _)⟩
  · rw [step_of_idle (s := { s with cal := cal }) hp hc, runCommand_of_decode_ok hd]
    exact exec_withCal (s := accept rest s) cal hl hi

/-- Settles O49: the other run ends either in the same state or, still UNINIT, in the state with the other CAL. -/
theorem calIsUnobservableBeforeInit : Obligations.CalIsUnobservableBeforeInit := by
  intro s t cal hl h
  rcases step_withCal cal hl h with ⟨uninit, hstep⟩ | hstep
  · exact ⟨_, hstep, rfl, fun ready => by cases ready.symm.trans uninit⟩
  · exact ⟨t, hstep, rfl, fun _ => rfl⟩

/-! ### The latched sample (R28) -/

/-- The two bytes of a sample, put together, are the sample (R53). -/
theorem append_sample_bytes (sample : RawSample) : (sample.extractLsb' 8 8 ++ sample.extractLsb' 0 8 : BitVec 16) = sample :=
  (BitVec.extractLsb'_append_extractLsb'_eq_extractLsb' (show 8 = 0 + 8 from rfl)).trans BitVec.extractLsb'_eq_self

/-- Settles O22: RDRAW composes the two bytes (readRaw_ok), and they are the halves of the sample. -/
theorem rdrawReturnsTheLatchedSample : Obligations.RdrawReturnsTheLatchedSample := by
  intro s sample ⟨rx₁, rx₂, hx₁, hx₂, hmsb, hlsb⟩ hl h₀ h₁ h₂ h₃
  obtain ⟨c₀, h₀⟩ := Option.ne_none_iff_exists'.mp h₀
  obtain ⟨c₁, h₁⟩ := Option.ne_none_iff_exists'.mp h₁
  obtain ⟨c₂, h₂⟩ := Option.ne_none_iff_exists'.mp h₂
  obtain ⟨c₃, h₃⟩ := Option.ne_none_iff_exists'.mp h₃
  refine ⟨_, congrArg Host.Outcome.next (requireInit_of_ready hl reportRaw), ?_⟩
  rw [reportRaw, readRaw_ok h₀ h₁ h₂ h₃ hx₁ hx₂, hmsb, hlsb, append_sample_bytes]
  rfl

end Sys2Proof.Machine
end

section
/-! PROOFS. The commands without a bus access (20_memory.md section 3, R56): the pins' events and the endings leave the bus alone, and these commands are made of nothing else. -/

namespace Sys2Proof.Machine

/-- From `s` to `t` the bus is not used: no answer is taken from its two ports and no bus event is appended (R56). -/
def NoBusAccess (s t : State) : Prop :=
  t.writePort = s.writePort ∧ t.xferPort = s.xferPort ∧ ∃ es, t.history = s.history ++ es ∧ ∀ e ∈ es, e.isBus = false

theorem NoBusAccess.refl (s : State) : NoBusAccess s s := ⟨rfl, rfl, [], by simp, by simp⟩

theorem csDrive_noBusAccess (l : Level) (s : State) : NoBusAccess s (csDrive l s).2 :=
  ⟨rfl, rfl, _, csDrive_history .., by simp⟩

theorem drdyRead_noBusAccess (s : State) : NoBusAccess s (drdyRead s).2 :=
  ⟨rfl, rfl, _, drdyRead_history .., by simp⟩

/-- An ending writes PHASE, the response, CAL and LIFE only, so it makes no bus access of its own. -/
theorem NoBusAccess.ended {s s' t : State} (h : NoBusAccess s s')
    (ht : t = { s' with phase := t.phase, resp := t.resp, cal := t.cal, life := t.life }) : NoBusAccess s t := by
  rw [ht]
  exact h

/-- Settles O40: an ENCADDR, SETCAL or CONVERT is its ending alone, and so is a refusal; INIT is one chip-select request and ISRDY one read of the ready pin. -/
theorem someCommandsMakeNoBusAccess : Obligations.SomeCommandsMakeNoBusAccess := by
  intro i s t hi h
  have same := NoBusAccess.refl s
  have pin := csDrive_noBusAccess .high s
  have ready := drdyRead_noBusAccess s
  have effect := exec_inv h
  rcases hi with rfl | ⟨c, rfl⟩ | rfl | ⟨reg, dir, rfl⟩ | ⟨raw, rfl⟩
  · cases effect with
    | noInstance _ _ hi _ => exact absurd rfl hi
    | initHung _ => exact pin.ended rfl
    | initOk _ _ => exact pin.ended rfl
    | initErr _ _ => exact pin.ended rfl
  · cases effect with
    | noInstance _ _ _ _ => exact same.ended rfl
    | setcal _ _ => exact same.ended rfl
  · cases effect with
    | noInstance _ _ _ _ => exact same.ended rfl
    | isrdyHung _ _ => exact ready.ended rfl
    | isrdyOk _ _ _ => exact ready.ended rfl
  · cases effect with
    | noInstance _ _ _ he => exact absurd rfl (he reg dir)
    | encaddr _ _ => exact same.ended rfl
  · cases effect with
    | noInstance _ _ _ _ => exact same.ended rfl
    | convert _ _ => exact same.ended rfl

end Sys2Proof.Machine
end

section
/-! PROOFS. The encoding (30_encoding.md): a word is legal when it has a command's opcode, no reserved bit and the command's operands within their bounds (decode_eq_ok_iff). The round trips, the opcode table's rows and the illegal encodings all go through that equivalence; then the operand bytes, the pseudo-instructions and lines of assembly. -/

namespace Sys2Proof.Machine

/-! ### The three parts of a format: opcode, reserved bits, operands (R70 to R72) -/

/-- The opcode of each command (R71). -/
def opcodeOf : Instr → BitVec 4
  | .encaddr _ _      => 0x1
  | .write _ _        => 0x2
  | .readn _ _        => 0x3
  | .init             => 0x4
  | .config _ _ _ _ _ => 0x5
  | .setcal _         => 0x6
  | .isrdy            => 0x7
  | .rdraw            => 0x8
  | .rdconv           => 0x9
  | .convert _        => 0xA

/-- The reserved bits of an opcode's format (R70, R81 item 2). -/
def reservedAt (op : BitVec 4) : CmdWord :=
  match op.toNat with
  | 0x1 => reservedEncaddr
  | 0x2 => reservedWrite
  | 0x3 => reservedReadn
  | 0x5 => reservedConfig
  | _   => reservedZ

/-- The operand fields of `c` hold the operands of `i`, within their bounds (R72, R81 items 3 and 4). -/
def HoldsOperands (c : Command) : Instr → Prop
  | .encaddr reg dir  => reg = regField c.cmd ∧ dir = Dir.ofBit (c.cmd.getLsbD 0)
  | .write reg val    => reg = regField c.cmd ∧ val = valField c.cmd
  | .readn reg n      => n ≠ 0 ∧ reg = regField c.cmd ∧ n = countField c.cmd
  | .init             => True
  | .config v m o w f => .config v m o w f = configOf c.cmd
  | .setcal cal       => cal = c.data
  | .isrdy            => True
  | .rdraw            => True
  | .rdconv           => True
  | .convert raw      => c.data.extractLsb' 16 16 = 0 ∧ raw = c.data.extractLsb' 0 16

/-- The decoder answers `i` exactly for the commands with `i`'s opcode, no reserved bit set and `i`'s operands in their fields. -/
theorem decode_eq_ok_iff {c : Command} {i : Instr} :
    decode c = .ok i ↔
      opcodeField c.cmd = opcodeOf i ∧ c.cmd &&& reservedAt (opcodeOf i) = 0 ∧ HoldsOperands c i := by
  constructor
  · intro h
    unfold decode at h
    split at h
    case h_11 => cases h -- no command has the opcode
    all_goals
      rename_i hop
      obtain ⟨hres, hi⟩ := unlessReserved_eq_ok h
    case h_3 => -- READN
      obtain ⟨hn, rfl⟩ := readnOf_eq_ok hi
      exact ⟨BitVec.eq_of_toNat_eq hop, hres, hn, rfl, rfl⟩
    case h_10 => -- CONVERT
      obtain ⟨hd, rfl⟩ := convertOf_eq_ok hi
      exact ⟨BitVec.eq_of_toNat_eq hop, hres, hd, rfl⟩
    all_goals
      cases hi
      exact ⟨BitVec.eq_of_toNat_eq hop, hres, by simp [HoldsOperands, configOf]⟩
  · rintro ⟨hop, hres, hi⟩
    have run : decode c = unlessReserved c.cmd (reservedAt (opcodeOf i)) (.ok i) := by
      unfold decode
      rw [hop]
      cases i with
      | encaddr reg dir =>
        obtain ⟨rfl, rfl⟩ := hi
        rfl
      | write reg val =>
        obtain ⟨rfl, rfl⟩ := hi
        rfl
      | readn reg n =>
        obtain ⟨hn, rfl, rfl⟩ := hi
        exact congrArg (unlessReserved c.cmd reservedReadn) (if_neg hn)
      | init => rfl
      | config v m o w f => exact congrArg (fun j => unlessReserved c.cmd reservedConfig (.ok j)) hi.symm
      | setcal cal =>
        obtain rfl := hi
        rfl
      | isrdy => rfl
      | rdraw => rfl
      | rdconv => rfl
      | convert raw =>
        obtain ⟨hd, rfl⟩ := hi
        exact congrArg (unlessReserved c.cmd reservedZ) (if_pos hd)
    exact run.trans (if_pos hres)

/-! ### Fields of words -/

theorem ofBool_getLsbD (w : CmdWord) (k : Nat) : BitVec.ofBool (w.getLsbD k) = w.extractLsb' k 1 := by
  apply BitVec.eq_of_getLsbD_eq
  intro j hj
  simp [Nat.lt_one_iff.mp hj]

theorem bits_regField (w : CmdWord) : (regField w).bits = w.extractLsb' 8 3 := RegId.bits_ofBits _

/-- A word is its opcode and the bits below it. -/
theorem opcodeField_append (w : CmdWord) : (opcodeField w ++ w.extractLsb' 0 12 : BitVec 16) = w :=
  (BitVec.extractLsb'_append_extractLsb'_eq_extractLsb' (show 12 = 0 + 12 from rfl)).trans BitVec.extractLsb'_eq_self

theorem opcodeField_of_append (op : BitVec 4) (low : BitVec 12) : opcodeField (op ++ low : BitVec 16) = op :=
  BitVec.extractLsb'_append_eq_left

/-- Words agree when their opcodes and the bits below agree. -/
theorem word_eq_iff {w w' : CmdWord} :
    w = w' ↔ opcodeField w = opcodeField w' ∧ w.extractLsb' 0 12 = w'.extractLsb' 0 12 := by
  constructor
  · rintro rfl
    exact ⟨rfl, rfl⟩
  · rintro ⟨hop, hlow⟩
    rw [← opcodeField_append w, hop, hlow, opcodeField_append]

/-! ### The opcode table's rows -/

/-- The opcode table says what the formats say: the pattern is the opcode alone, and the mask has the opcode and the reserved bits. -/
theorem rowOf_eq (i : Instr) :
    rowOf i = { pattern := opcodeOf i ++ 0#12, mask := 0xF000 ||| reservedAt (opcodeOf i) } := by
  cases i <;> (dsimp only [rowOf, opcodeOf]; decide)

theorem opcodeField_reservedAt (op : BitVec 4) : opcodeField (reservedAt op) = 0 := by
  revert op; decide

/-- A word matches a command's row when it has the command's opcode and no reserved bit. -/
theorem covers_iff (i : Instr) (w : CmdWord) :
    (rowOf i).covers w = true ↔ opcodeField w = opcodeOf i ∧ w &&& reservedAt (opcodeOf i) = 0 := by
  have hreserved : (reservedAt (opcodeOf i)).extractLsb' 12 4 = 0 := opcodeField_reservedAt (opcodeOf i)
  have hop : (opcodeOf i ++ 0#12 : BitVec 16).extractLsb' 12 4 = opcodeOf i := opcodeField_of_append _ _
  have hlow : (opcodeOf i ++ 0#12 : BitVec 16).extractLsb' 0 12 = 0#12 :=
    BitVec.extractLsb'_append_eq_right
  have hall (x : BitVec 4) : x &&& 15#4 = x := BitVec.and_allOnes
  rw [rowOf_eq, Row.covers, beq_iff_eq, word_eq_iff, word_eq_iff]
  simp [opcodeField, BitVec.extractLsb'_and, BitVec.extractLsb'_or, hreserved, hop, hlow, hall]

/-! ### Cutting a word into its fields and putting it together again -/

/-- A word of format Z is its opcode and zeros. -/
theorem formatZ_eq {w : CmdWord} (op : BitVec 4) (hop : opcodeField w = op) (hres : w &&& reservedZ = 0) :
    (op ++ 0#12 : BitVec 16) = w := by
  rw [← hop, ← (reservedZ_iff w).mp hres]
  exact opcodeField_append w

/-- A legal word is the encoder's word of the command whose operands it holds. -/
theorem encodeWord_of_holdsOperands {c : Command} {i : Instr} (hop : opcodeField c.cmd = opcodeOf i)
    (hres : c.cmd &&& reservedAt (opcodeOf i) = 0) (hi : HoldsOperands c i) : encodeWord i = c.cmd := by
  obtain ⟨w, d⟩ := c
  have bit11 (h : w.getLsbD 11 = false) : w.extractLsb' 11 1 = 0#1 :=
    (ofBool_getLsbD w 11).symm.trans (congrArg BitVec.ofBool h)
  cases i with
  | encaddr reg dir =>
    obtain ⟨rfl, rfl⟩ := hi
    obtain ⟨h11, h1⟩ := (reservedEncaddr_iff w).mp hres
    have hop : w.extractLsb' 12 4 = 0x1#4 := hop
    rw [encodeWord, bits_regField, Dir.bit_ofBit, ofBool_getLsbD, ← hop, ← bit11 h11, ← h1]
    simpa only [BitVec.extractLsb'_append_extractLsb'_eq_extractLsb'] using BitVec.extractLsb'_eq_self (x := w)
  | write reg val =>
    obtain ⟨rfl, rfl⟩ := hi
    have h11 := (reservedWrite_iff w).mp hres
    have hop : w.extractLsb' 12 4 = 0x2#4 := hop
    rw [encodeWord, bits_regField, valField, ← hop, ← bit11 h11]
    simpa only [BitVec.extractLsb'_append_extractLsb'_eq_extractLsb'] using BitVec.extractLsb'_eq_self (x := w)
  | readn reg n =>
    obtain ⟨-, rfl, rfl⟩ := hi
    obtain ⟨h11, h4⟩ := (reservedReadn_iff w).mp hres
    have hop : w.extractLsb' 12 4 = 0x3#4 := hop
    rw [encodeWord, bits_regField, ofFin_countField, ← hop, ← bit11 h11, ← h4]
    simpa only [BitVec.extractLsb'_append_extractLsb'_eq_extractLsb'] using BitVec.extractLsb'_eq_self (x := w)
  | init => exact formatZ_eq 0x4 hop hres
  | config v m o wiring f =>
    obtain ⟨rfl, rfl, rfl, rfl, rfl⟩ := Instr.config.inj hi
    obtain ⟨h8, h1⟩ := (reservedConfig_iff w).mp hres
    have hop : w.extractLsb' 12 4 = 0x5#4 := hop
    simp only [encodeWord, Wiring.bit_ofBit, Filter.bit_ofBit, ofBool_getLsbD]
    rw [← hop, ← h8, ← h1]
    simpa only [BitVec.extractLsb'_append_extractLsb'_eq_extractLsb'] using BitVec.extractLsb'_eq_self (x := w)
  | setcal _ => exact formatZ_eq 0x6 hop hres
  | isrdy => exact formatZ_eq 0x7 hop hres
  | rdraw => exact formatZ_eq 0x8 hop hres
  | rdconv => exact formatZ_eq 0x9 hop hres
  | convert _ => exact formatZ_eq 0xA hop hres

/-- CONVERT's operand word is the sample below zeros (R72). -/
theorem encodeData_convert (raw : RawSample) : encodeData (.convert raw) = (0#16 ++ raw : BitVec 32) :=
  BitVec.setWidth_eq_append (x := raw) (w := 32) (by decide)

/-- The encoder puts a well-formed command's operands where the decoder finds them. -/
theorem holdsOperands_encode {i : Instr} (h : i.wellFormed = true) : HoldsOperands (encode i) i := by
  cases i with
  | encaddr reg dir => cases reg <;> cases dir <;> exact ⟨rfl, rfl⟩
  | write reg val =>
    have hreg : (encodeWord (.write reg val)).extractLsb' 8 3 = reg.bits :=
      (BitVec.extractLsb'_append_eq_of_le (by decide)).trans BitVec.extractLsb'_append_eq_right
    have hval : (encodeWord (.write reg val)).extractLsb' 0 8 = val := BitVec.extractLsb'_append_eq_right
    exact ⟨by rw [encode, regField, hreg, RegId.ofBits_bits], hval.symm⟩
  | readn reg n =>
    have hreg : (encodeWord (.readn reg n)).extractLsb' 8 3 = reg.bits :=
      (BitVec.extractLsb'_append_eq_of_le (by decide)).trans <|
        (BitVec.extractLsb'_append_eq_of_le (by decide)).trans BitVec.extractLsb'_append_eq_right
    have hcount : (encodeWord (.readn reg n)).extractLsb' 0 4 = BitVec.ofFin n := BitVec.extractLsb'_append_eq_right
    exact ⟨of_decide_eq_true h, by rw [encode, regField, hreg, RegId.ofBits_bits], by rw [encode, countField, hcount]⟩
  | init => trivial
  | config v m o w f => cases v <;> cases m <;> cases o <;> cases w <;> cases f <;> rfl
  | setcal cal => rfl
  | isrdy => trivial
  | rdraw => trivial
  | rdconv => trivial
  | convert raw =>
    have hdata : (encode (.convert raw)).data = (0#16 ++ raw : BitVec 32) := encodeData_convert raw
    rw [HoldsOperands, hdata]
    exact ⟨BitVec.extractLsb'_append_eq_left, BitVec.extractLsb'_append_eq_right.symm⟩

/-- The encoder's word matches its command's row, from the family TableRow. -/
theorem covers_encodeWord (i : Instr) : (rowOf i).covers (encodeWord i) = true :=
  match i with
  | .encaddr reg dir  => Laws.TableRow.encaddr reg dir
  | .write reg val    => Laws.TableRow.write reg val
  | .readn reg n      => Laws.TableRow.readn reg n
  | .init             => Laws.TableRow.init
  | .config v m o w f => Laws.TableRow.config v m o w f
  | .setcal cal       => Laws.TableRow.setcal cal
  | .isrdy            => Laws.TableRow.isrdy
  | .rdraw            => Laws.TableRow.rdraw
  | .rdconv           => Laws.TableRow.rdconv
  | .convert raw      => Laws.TableRow.convert raw

/-- Settles O1: the encoder's word matches the command's row, so it has the opcode and no reserved bit, and the operands stand in their fields. -/
theorem decodeOfEncodeIsTheInstruction : Obligations.DecodeOfEncodeIsTheInstruction := by
  intro i hi
  obtain ⟨hop, hres⟩ := (covers_iff i _).mp (covers_encodeWord i)
  exact decode_eq_ok_iff.mpr ⟨hop, hres, holdsOperands_encode hi⟩

/-- Of the commands that read DATA, the operand holds all of it: CONVERT's upper half is 0 (R81 item 4). -/
theorem encodeData_of_holdsOperands {c : Command} {i : Instr} (hi : HoldsOperands c i)
    (hop : opcodeOf i = 0x6 ∨ opcodeOf i = 0xA) : encodeData i = c.data := by
  cases i with
  | setcal cal => exact hi
  | convert raw =>
    obtain ⟨hhigh, rfl⟩ := hi
    have hhigh : c.data.extractLsb' 16 16 = 0#16 := hhigh
    rw [encodeData_convert, ← hhigh]
    simpa only [BitVec.extractLsb'_append_extractLsb'_eq_extractLsb'] using BitVec.extractLsb'_eq_self (x := c.data)
  | _ => exact absurd hop (by dsimp only [opcodeOf]; decide)

/-- Settles O2: the fields put together again are the word. -/
theorem encodeOfDecodeIsTheWord : Obligations.EncodeOfDecodeIsTheWord := by
  intro c i h
  obtain ⟨hop, hres, hi⟩ := decode_eq_ok_iff.mp h
  refine ⟨wellFormed_of_decode h, encodeWord_of_holdsOperands hop hres hi, fun hdata => ?_⟩
  rw [hop] at hdata
  exact encodeData_of_holdsOperands hi hdata

/-- Settles O3: a row is matched by opcode and reserved bits (covers_iff), and the opcode alone says which row it is (rowOf_eq). -/
theorem legalWordMatchesExactlyItsRow : Obligations.LegalWordMatchesExactlyItsRow := by
  intro c i h
  obtain ⟨hop, hres, -⟩ := decode_eq_ok_iff.mp h
  refine ⟨(covers_iff i c.cmd).mpr ⟨hop, hres⟩, fun j hj => ?_⟩
  obtain ⟨hop', -⟩ := (covers_iff j c.cmd).mp hj
  rw [rowOf_eq, rowOf_eq, ← hop', hop]

/-! ### The illegal encodings (R81) -/

theorem exists_unlessReserved_eq_ok_iff {w mask : CmdWord} {r : Except Illegal Instr} :
    (∃ i, unlessReserved w mask r = .ok i) ↔ w &&& mask = 0#16 ∧ ∃ i, r = .ok i := by
  constructor
  · rintro ⟨i, h⟩
    obtain ⟨hres, hi⟩ := unlessReserved_eq_ok h
    exact ⟨hres, i, hi⟩
  · rintro ⟨hres, i, hi⟩
    exact ⟨i, (if_pos hres).trans hi⟩

theorem exists_readnOf_eq_ok_iff {reg : RegId} {n : Fin 16} : (∃ i, readnOf reg n = .ok i) ↔ n ≠ 0 :=
  ⟨fun ⟨_, h⟩ => (readnOf_eq_ok h).1, fun h => ⟨_, if_neg h⟩⟩

theorem exists_convertOf_eq_ok_iff {d : DataWord} : (∃ i, convertOf d = .ok i) ↔ d.extractLsb' 16 16 = 0#16 :=
  ⟨fun ⟨_, h⟩ => (convertOf_eq_ok h).1, fun h => ⟨_, if_pos h⟩⟩

/-- The decoder refuses exactly the encodings that R81 lists. -/
theorem exists_decode_eq_ok_iff (c : Command) : (∃ i, decode c = .ok i) ↔ ¬ listedIllegal c := by
  have hop : (c.cmd.extractLsb' 12 4).toNat = (opcodeField c.cmd).toNat := rfl
  unfold decode listedIllegal
  rw [hop]
  split
  case h_11 => -- no command has the opcode
    simp only [imp_false] at *
    have unused : (opcodeField c.cmd).toNat = 0x0 ∨ 0xB ≤ (opcodeField c.cmd).toNat := by omega
    exact iff_of_false (by simp) (not_not_intro (unused.imp_right .inl))
  all_goals
    rename_i hop
    rw [exists_unlessReserved_eq_ok_iff]
  case h_3 => simp [hop, exists_readnOf_eq_ok_iff, reservedReadn_iff, countField_eq_zero_iff, and_assoc]
  case h_10 => simp [hop, exists_convertOf_eq_ok_iff, reservedZ_iff]
  all_goals simp [hop, reservedEncaddr_iff, reservedWrite_iff, reservedConfig_iff, reservedZ_iff]

/-- DATA is read by SETCAL and CONVERT only (R80, D17). -/
theorem HoldsOperands.withData {c : Command} {i : Instr} (h : HoldsOperands c i) (h₆ : opcodeOf i ≠ 0x6)
    (h₁₀ : opcodeOf i ≠ 0xA) (d : DataWord) : HoldsOperands { c with data := d } i := by
  cases i with
  | setcal _ => exact absurd rfl h₆
  | convert _ => exact absurd rfl h₁₀
  | _ => exact h

theorem decode_withData {c : Command} {i : Instr} (h : decode c = .ok i) (h₆ : opcodeField c.cmd ≠ 0x6)
    (h₁₀ : opcodeField c.cmd ≠ 0xA) (d : DataWord) : decode { c with data := d } = .ok i := by
  obtain ⟨hop, hres, hi⟩ := decode_eq_ok_iff.mp h
  rw [hop] at h₆ h₁₀
  exact decode_eq_ok_iff.mpr ⟨hop, hres, hi.withData h₆ h₁₀ d⟩

/-- Settles O4: the decoder refuses what R81 lists (exists_decode_eq_ok_iff); a refused command's step is the E_ILLEGAL response alone. -/
theorem listedEncodingsAndNoOthersAreIllegal : Obligations.ListedEncodingsAndNoOthersAreIllegal := by
  intro c rest s hp hc
  constructor
  · intro hl
    cases hd : decode c with
    | ok i => exact absurd hl ((exists_decode_eq_ok_iff c).mp ⟨i, hd⟩)
    | error e => rw [step_of_idle hp hc, runCommand_of_decode_error hd, raise, respond, accept, hp]
  · intro hl
    obtain ⟨i, hd⟩ := (exists_decode_eq_ok_iff c).mpr hl
    exact ⟨i, hd, wellFormed_of_decode hd, decode_withData hd⟩

/-- Settles O5: six closed words, by running the decoder. -/
theorem writtenOutWordsDecode : Obligations.WrittenOutWordsDecode := by
  unfold Obligations.WrittenOutWordsDecode
  decide

/-! ### The address bytes (R74 to R76) -/

theorem zeroExtend_regBase (p : Params) (reg : RegId) : (regBase p reg).zeroExtend 8 = (0#1 ++ regBase p reg : BitVec 8) :=
  BitVec.setWidth_eq_append (x := regBase p reg) (w := 8) (by decide)

/-- Bit 7 as a field of a byte. -/
theorem bit7_eq_append : (0x80 : Byte) = (1#1 ++ 0#7 : BitVec 8) := rfl

theorem readAddress_eq_append (p : Params) (reg : RegId) : readAddress p reg = (0#1 ++ regBase p reg : BitVec 8) :=
  BitVec.or_zero.trans (zeroExtend_regBase p reg)

theorem writeAddress_eq_append (p : Params) (reg : RegId) : writeAddress p reg = (1#1 ++ regBase p reg : BitVec 8) := by
  rw [writeAddress, zeroExtend_regBase, bit7_eq_append, BitVec.or_append, BitVec.or_zero, BitVec.zero_or]

/-- Settles O6: the address bytes are the direction bit above the base, and the laws are about bit 7 alone. -/
theorem addressBytesObeyTheLaws : Obligations.AddressBytesObeyTheLaws := by
  intro p reg
  have base (b : BitVec 1) : (b ++ regBase p reg : BitVec 8).extractLsb' 0 7 = regBase p reg :=
    BitVec.extractLsb'_append_eq_right
  rw [readAddress_eq_append, writeAddress_eq_append, bit7_eq_append]
  refine ⟨base 0#1, base 1#1, ?_, ?_, ?_⟩
  · rw [BitVec.and_append, BitVec.and_zero]; rfl
  · rw [BitVec.and_append, BitVec.and_zero]; rfl
  · rw [BitVec.or_append, BitVec.or_zero]; rfl

/-! ### The configuration word (R77) -/

theorem encodeWord_config (v m o : Bool) (w : Wiring) (f : Filter) :
    encodeWord (.config v m o w f) = (0x50#8 ++ cfgWord v m o w f : BitVec 16) := by
  cases v <;> cases m <;> cases o <;> cases w <;> cases f <;> rfl

/-- Settles O7: both sides, at each of the 32 choices. -/
theorem configWordHasItsFieldsInPlace : Obligations.ConfigWordHasItsFieldsInPlace := by
  intro v m o w f
  cases v <;> cases m <;> cases o <;> cases w <;> cases f <;> rfl

/-! ### Pseudo-instructions and lines of assembly (R82, R83) -/

/-- CONFIG's opcode above a byte without a bit under `0x0E` is a legal word (R83). -/
theorem decode_config_byte {imm : Byte} (h : imm &&& 0x0E = 0) :
    decode { cmd := (0x50#8 ++ imm : BitVec 16), data := 0 } = .ok (configOf (imm.zeroExtend 16)) := by
  have hop : opcodeField (0x50#8 ++ imm : BitVec 16) = 0x5 := BitVec.extractLsb'_append_eq_of_le (by decide)
  have hres : (0x50#8 ++ imm : BitVec 16) &&& (0x0F#8 ++ 0x0E#8) = 0 := by
    rw [BitVec.and_append]
    exact congrArg ((0x50#8 &&& 0x0F#8) ++ ·) h
  have hbit (k : Nat) (hk : k < 8) : (imm.zeroExtend 16).getLsbD k = (0x50#8 ++ imm : BitVec 16).getLsbD k := by
    rw [BitVec.getLsbD_setWidth, BitVec.getLsbD_append, if_pos hk, decide_eq_true (by omega), Bool.true_and]
  have hfields : configOf (imm.zeroExtend 16) = configOf (0x50#8 ++ imm : BitVec 16) := by
    simp only [configOf, hbit, Nat.reduceLT]
  exact decode_eq_ok_iff.mpr ⟨hop, hres, hfields⟩

/-- Settles O9: CFGBYTE's word is legal (decode_config_byte), so it is the encoder's word of its command (O2), and the low byte of that is the configuration word. -/
theorem pseudoInstructionsExpand : Obligations.PseudoInstructionsExpand := by
  refine ⟨fun imm h => if_neg h, fun imm h => ?_, fun reg => ?_, fun reg => ?_⟩
  · obtain ⟨-, hword, -⟩ := encodeOfDecodeIsTheWord _ _ (decode_config_byte h)
    exact ⟨_, _, _, _, _, if_pos h, hword, (BitVec.append_right_inj _).mp ((encodeWord_config ..).symm.trans hword)⟩
  · cases reg <;> rfl
  · cases reg <;> rfl

/-- Settles O10: five closed lines, by running the assembler. -/
theorem assemblyLinesEncode : Obligations.AssemblyLinesEncode := by
  unfold Obligations.AssemblyLinesEncode
  decide

end Sys2Proof.Machine
end

section
/-! PROOFS. The framing laws (40_bus_framer.md R105, 70_reset_and_hazards.md R247, R249): a command is one of six courses of events (Effect.course), and each of them keeps the framing invariant and makes no bus event after a bus error. -/

namespace Sys2Proof.Machine

/-- What one command makes at the interfaces: no event, one drive of chip-select HIGH, one read of the ready pin, each of these two answered or not, or the events of its FRAMEs. -/
inductive Course (s : State) : State → Prop where
  | quiet (r : Response BusError PinError) (cal : Calibration) : Course s (respond r { s with cal := cal })
  | driven (r : Response BusError PinError) (cal : Calibration) (life : Life) {a : PinAnswer Unit PinError}
      (h : s.csAt 0 = some a) : Course s (respond r { (csDrive .high s).2 with cal := cal, life := life })
  | driveUnanswered (h : s.csAt 0 = none) : Course s (hang (csDrive .high s).2)
  | sampled (r : Response BusError PinError) {a : PinAnswer Level PinError} (h : s.drdyAt 0 = some a) :
      Course s (respond r (drdyRead s).2)
  | sampleUnanswered (h : s.drdyAt 0 = none) : Course s (hang (drdyRead s).2)
  | framed {α : Type} {good : α → Response BusError PinError} {t : State} (hl : s.life = .ready) (h : Ended s good t) :
      Course s t

theorem Effect.course {i : Instr} {s t : State} (h : Effect s i t) : Course s t := by
  cases h with
  | encaddr _ _ => exact .quiet _ s.cal
  | zeroCount _ => exact .quiet _ s.cal
  | noInstance _ _ _ _ => exact .quiet _ s.cal
  | write _ _ hl h => exact .framed hl h
  | readn _ _ _ hl h => exact .framed hl h
  | config _ _ _ _ _ hl h => exact .framed hl h
  | initHung h => exact .driveUnanswered h
  | initOk _ h => exact .driven _ _ _ h
  | initErr _ h => exact .driven _ s.cal _ h
  | setcal _ _ => exact .quiet _ _
  | isrdyHung _ h => exact .sampleUnanswered h
  | isrdyOk _ _ h => exact .sampled _ h
  | rdraw hl h => exact .framed hl h
  | rdconv hl h => exact .framed hl h
  | convert _ _ => exact .quiet _ s.cal

/-! ### The framing invariant (R105, R24) -/

/-- The invariant of an IDLE block without the word of PHASE: a command meets it, already accepted and BUSY. -/
def AtRest (s : State) : Prop :=
  ∃ w, Window.scan s.params.csOnXferError .closed s.history = some w ∧ idleRequest s w

theorem framingInv_iff_of_idle {s : State} (h : s.phase = .idle) : FramingInv s ↔ AtRest s := by
  simp only [FramingInv, AtRest, h]

theorem framingInv_iff_of_busy {s : State} (h : s.phase = .busy) :
    FramingInv s ↔ Window.scan s.params.csOnXferError .closed s.history = some .hung ∧ s.resp = none := by
  simp only [FramingInv, h]
  exact ⟨fun ⟨_, hscan, rfl, hr⟩ => ⟨hscan, hr⟩, fun ⟨hscan, hr⟩ => ⟨_, hscan, rfl, hr⟩⟩

/-- An IDLE block stands outside a window or in one that HOLD left open. -/
theorem closed_or_held_of_idleRequest {s : State} {w : Window} (h : idleRequest s w) : w = .closed ∨ w = .held := by
  cases w with
  | closed => exact .inl rfl
  | held => exact .inr rfl
  | asserted => exact h.elim
  | transferred => exact h.elim
  | hung => exact h.elim

/-- idleRequest reads CS_REQ and LIFE only. -/
theorem idleRequest_congr {s t : State} {w : Window} (hreq : t.csReq = s.csReq) (hlife : t.life = s.life)
    (h : idleRequest s w) : idleRequest t w := by
  cases w with
  | closed => simpa only [idleRequest, hreq, hlife] using h
  | held => simpa only [idleRequest, hreq, hlife] using h
  | asserted => exact h
  | transferred => exact h
  | hung => exact h

theorem After.csReq_of_lastDrive {E P : Type} {s t : State.Of E P} {es : List (Event E P)} {l : Level} (h : After s t es)
    (hl : (lastDrive es).map Prod.fst = some l) : t.csReq = l.request := by
  obtain ⟨⟨_, a⟩, hd, rfl⟩ := Option.map_eq_some_iff.mp hl
  exact (h.request _ a hd).1

section
variable {s t : State} {w : Window}

/-- The place of a history is where its last events lead from the place before them. -/
theorem After.scan {es : List (Event BusError PinError)} (h : After s t es)
    (hw : Window.scan s.params.csOnXferError .closed s.history = some w) :
    Window.scan t.params.csOnXferError .closed t.history = Window.scan s.params.csOnXferError w es := by
  rw [h.params, h.history, scan_append, hw]
  rfl

/-- FRAMEs of a READY block that begin outside a window, or in a held one, leave the framing invariant, whatever they end in. -/
theorem Ended.framingInv {α : Type} {good : α → Response BusError PinError} (hl : s.life = .ready)
    (hw : Window.scan s.params.csOnXferError .closed s.history = some w) (hplace : w = .closed ∨ w = .held)
    (h : Ended s good t) : FramingInv t := by
  cases h with
  | hung after framed _ =>
    obtain ⟨-, -, hscan⟩ := framed
    exact (framingInv_iff_of_busy rfl).mpr ⟨(after.scan hw).trans (hscan w hplace), rfl⟩
  | done _ after framed _ =>
    obtain ⟨-, -, hhigh, hscan⟩ := framed
    exact (framingInv_iff_of_idle rfl).mpr
      ⟨.closed, (after.scan hw).trans (hscan w hplace), .inl (after.csReq_of_lastDrive hhigh)⟩
  | failed _ after framed _ =>
    obtain ⟨-, -, -, ⟨hhigh, hscan⟩ | ⟨hlow, hscan⟩⟩ := framed
    · exact (framingInv_iff_of_idle rfl).mpr
        ⟨.closed, (after.scan hw).trans (hscan w hplace), .inl (after.csReq_of_lastDrive hhigh)⟩
    · exact (framingInv_iff_of_idle rfl).mpr
        ⟨.held, (after.scan hw).trans (hscan w hplace), after.csReq_of_lastDrive hlow, after.life.trans hl⟩

end

/-- Outside a window a drive of chip-select HIGH closes, and without an answer it hangs. -/
theorem scan_drive_high {E P : Type} {p : CsPolicy} {w : Window} (a : Option (PinAnswer Unit P)) (hw : w = .closed ∨ w = .held) :
    Window.scan p w [(.csDrive .high a : Event E P)] = some (if a.isSome then .closed else .hung) := by
  rcases hw with rfl | rfl <;> cases a <;> rfl

/-- Outside a window a read of the ready pin stays where it is, and without an answer it hangs. -/
theorem scan_drdyRead {E P : Type} {p : CsPolicy} {w : Window} (a : Option (PinAnswer Level P)) (hw : w = .closed ∨ w = .held) :
    Window.scan p w [(.drdyRead a : Event E P)] = some (if a.isSome then w else .hung) := by
  rcases hw with rfl | rfl <;> cases a <;> rfl

/-- A command that meets the invariant of an IDLE block leaves the framing invariant. -/
theorem Course.framingInv {s t : State} (hs : AtRest s) (h : Course s t) : FramingInv t := by
  obtain ⟨w, hw, hreq⟩ := hs
  have hplace := closed_or_held_of_idleRequest hreq
  cases h with
  | quiet _ _ => exact (framingInv_iff_of_idle rfl).mpr ⟨w, hw, idleRequest_congr rfl rfl hreq⟩
  | driven _ _ _ h =>
    refine (framingInv_iff_of_idle rfl).mpr ⟨.closed, ?_, .inl rfl⟩
    exact ((csDrive_after .high s).scan hw).trans (by rw [scan_drive_high _ hplace, h]; rfl)
  | driveUnanswered h =>
    refine (framingInv_iff_of_busy rfl).mpr ⟨?_, rfl⟩
    exact ((csDrive_after .high s).scan hw).trans (by rw [scan_drive_high _ hplace, h]; rfl)
  | sampled _ h =>
    refine (framingInv_iff_of_idle rfl).mpr ⟨w, ?_, idleRequest_congr rfl rfl hreq⟩
    exact ((drdyRead_after s).scan hw).trans (by rw [scan_drdyRead _ hplace, h]; rfl)
  | sampleUnanswered h =>
    refine (framingInv_iff_of_busy rfl).mpr ⟨?_, rfl⟩
    exact ((drdyRead_after s).scan hw).trans (by rw [scan_drdyRead _ hplace, h]; rfl)
  | framed hl h => exact h.framingInv hl hw hplace

/-- Settles O36: a waiting block stays as it is, an illegal command is a course without events, and a legal one is its effect's course on the accepted state. -/
theorem stepKeepsTheFramingInvariant : Obligations.StepKeepsTheFramingInvariant := by
  intro s t hs h
  rcases step_inv h with ⟨rfl, -⟩ | ⟨c, rest, hp, -, hrun⟩
  · exact hs
  obtain ⟨w, hw, hreq⟩ := (framingInv_iff_of_idle hp).mp hs
  have accepted : AtRest (accept rest s) := ⟨w, hw, idleRequest_congr rfl rfl hreq⟩
  rcases hrun with ⟨_, -, rfl⟩ | ⟨i, -, hi⟩
  · exact (Course.quiet _ s.cal).framingInv accepted
  · exact (exec_inv hi).course.framingInv accepted

/-! ### Nothing is retried (R105 law 4) -/

/-- No bus event follows one that answered with an error. -/
def NoBusAfterError (es : List (Event BusError PinError)) : Prop :=
  ∀ pre e post, es = pre ++ e :: post → e.busErrorOf.isSome = true → ∀ x ∈ post, x.isBus = false

theorem noBusAfterError_of_no_error {es : List (Event BusError PinError)} (h : ∀ e ∈ es, e.busErrorOf = none) :
    NoBusAfterError es := by
  rintro pre e post rfl herr
  rw [h e (by simp)] at herr
  cases herr

theorem Framed.noBusAfterError {α : Type} {p : CsPolicy} {es : List (Event BusError PinError)} {r : Option (BusAnswer α BusError)}
    (h : Framed p es r) : NoBusAfterError es :=
  match r, h with
  | none, ⟨_, hx, _⟩ => hx
  | some (.ok _), ⟨_, hok, _⟩ => noBusAfterError_of_no_error hok
  | some (.busErr _), ⟨_, hx, _⟩ => hx

theorem Ended.noBusAfterError {α : Type} {s t : State} {good : α → Response BusError PinError} (h : Ended s good t) :
    ∃ es, t.history = s.history ++ es ∧ NoBusAfterError es := by
  cases h with
  | hung after framed _ => exact ⟨_, after.history, framed.noBusAfterError⟩
  | done _ after framed _ => exact ⟨_, after.history, framed.noBusAfterError⟩
  | failed _ after framed _ => exact ⟨_, after.history, framed.noBusAfterError⟩

theorem Course.noBusAfterError {s t : State} (h : Course s t) : ∃ es, t.history = s.history ++ es ∧ NoBusAfterError es := by
  cases h with
  | quiet _ _ => exact ⟨[], (List.append_nil _).symm, noBusAfterError_of_no_error (by simp)⟩
  | driven _ _ _ _ => exact ⟨_, csDrive_history .., noBusAfterError_of_no_error (by simp)⟩
  | driveUnanswered _ => exact ⟨_, csDrive_history .., noBusAfterError_of_no_error (by simp)⟩
  | sampled _ _ => exact ⟨_, drdyRead_history .., noBusAfterError_of_no_error (by simp)⟩
  | sampleUnanswered _ => exact ⟨_, drdyRead_history .., noBusAfterError_of_no_error (by simp)⟩
  | framed _ h => exact h.noBusAfterError

/-- Settles O39: a command's events are those of its course, and a block that waits or refuses an illegal command makes none. -/
theorem busErrorEndsTheCommandsBusActivity : Obligations.BusErrorEndsTheCommandsBusActivity := by
  intro s t h
  rcases step_inv h with ⟨rfl, -⟩ | ⟨c, rest, -, -, ⟨_, -, rfl⟩ | ⟨i, -, hi⟩⟩
  · exact ⟨[], (List.append_nil _).symm, noBusAfterError_of_no_error (by simp)⟩
  · exact (Course.quiet (s := accept rest s) _ s.cal).noBusAfterError
  · exact (exec_inv hi).course.noBusAfterError

end Sys2Proof.Machine
end

section
/-! PROOFS. The framer's own commands (40_bus_framer.md): WRITE and READN are one FRAME each, so their three rows (R103, R113) are the three ways in which an answered FRAME ends; ENCADDR is an address byte in a wider word (R101). -/

namespace Sys2Proof.Machine

variable {E P : Type} {s : State.Of E P} {lo hi : PinAnswer Unit P} {e : E}

/-! ### One framed BusWrite that ends a command (R102, R103) -/

section write
variable (tx : List Byte) (h₀ : s.csAt 0 = some lo)
include h₀

theorem writeTransaction_ok (hw : s.writeAt 0 = some (.ok ())) (h₁ : s.csAt 1 = some hi) :
    writeTransaction tx s = respond { status := .ok }
      { afterWindow s lo (.busWrite tx (some (.ok ()))) (some hi) with writePort := s.writePort.skip 1 } := by
  rw [writeTransaction, frame_busWrite_window tx h₀ hw rfl, h₁]
  rfl

theorem writeTransaction_err (hw : s.writeAt 0 = some (.busErr e)) (hp : s.params.csOnXferError = .deassert)
    (h₁ : s.csAt 1 = some hi) :
    writeTransaction tx s = raise .transport (.bus e)
      { afterWindow s lo (.busWrite tx (some (.busErr e))) (some hi) with writePort := s.writePort.skip 1 } := by
  rw [writeTransaction, frame_busWrite_window tx h₀ hw (by rw [hp]; rfl), h₁]
  rfl

theorem writeTransaction_held (hw : s.writeAt 0 = some (.busErr e)) (hp : s.params.csOnXferError = .hold) :
    writeTransaction tx s = raise .transport (.bus e)
      { afterHeldWindow s lo (.busWrite tx (some (.busErr e))) with writePort := s.writePort.skip 1 } := by
  rw [writeTransaction, frame_busWrite_held tx h₀ hw (by rw [hp]; rfl)]

end write

/-- WRITE in a READY block is its transaction (R102). -/
theorem exec_write_of_ready {reg : RegId} {val : Byte} {s t : State} (hl : s.life = .ready)
    (h : writeTransaction [writeAddress s.params reg, val] s = t) : exec (.write reg val) s = .next t :=
  congrArg Host.Outcome.next ((requireInit_of_ready hl _).trans h)

/-- Settles O12: the three ends of the transaction. -/
theorem writeRunsOneFramedBusWrite : Obligations.WriteRunsOneFramedBusWrite := fun _ _ _ _ hl h₀ =>
  ⟨fun _ hw h₁ => exec_write_of_ready hl (writeTransaction_ok _ h₀ hw h₁),
    fun _ _ hw hp h₁ => exec_write_of_ready hl (writeTransaction_err _ h₀ hw hp h₁),
    fun _ hw hp => exec_write_of_ready hl (writeTransaction_held _ h₀ hw hp)⟩

/-! ### READN's framed transfer (R110 to R113) -/

/-- READN sends as many bytes as it is to receive (R111). -/
theorem length_readnTx (p : Params) (reg : RegId) {n : Fin 16} (hn : n ≠ 0) : (readnTx p reg n).length = n.val := by
  have : n.val ≠ 0 := Fin.val_ne_zero_iff.mpr hn
  simp only [readnTx, List.length_cons, List.length_replicate]
  omega

theorem received_readnTx (p : Params) (reg : RegId) {n : Fin 16} (hn : n ≠ 0) (rx : RxBytes) :
    received (readnTx p reg n) (.ok rx : BusAnswer RxBytes E) = .ok (rx.toList.take n.val) := by
  rw [received, length_readnTx p reg hn]

/-- BUF holds the received bytes and 0 beyond them (R112, R32). -/
theorem receivedBuf_getElem (n : Fin 16) (rx : RxBytes) (k : Nat) (h : k < 15) :
    (receivedBuf n rx)[k] = if k < n.val then rx[k] else 0 :=
  Vector.getElem_ofFn h

section read
variable (reg : RegId) (n : Fin 16) (h₀ : s.csAt 0 = some lo)
include h₀

theorem readTransaction_ok {rx : RxBytes} (hn : n ≠ 0) (hx : s.xferAt 0 = some (.ok rx)) (h₁ : s.csAt 1 = some hi) :
    readTransaction reg n s = respond { status := .ok, len := n, buf := receivedBuf n rx }
      { afterWindow s lo (.busXfer (readnTx s.params reg n) (some (.ok (rx.toList.take n.val)))) (some hi) with
        xferPort := s.xferPort.skip 1 } := by
  rw [readTransaction, frame_busXfer_window _ h₀ hx rfl, h₁, received_readnTx _ _ hn]
  rfl

theorem readTransaction_err (hx : s.xferAt 0 = some (.busErr e)) (hp : s.params.csOnXferError = .deassert)
    (h₁ : s.csAt 1 = some hi) :
    readTransaction reg n s = raise .transport (.bus e)
      { afterWindow s lo (.busXfer (readnTx s.params reg n) (some (.busErr e))) (some hi) with
        xferPort := s.xferPort.skip 1 } := by
  rw [readTransaction, frame_busXfer_window _ h₀ hx (by rw [hp]; rfl), h₁]
  rfl

theorem readTransaction_held (hx : s.xferAt 0 = some (.busErr e)) (hp : s.params.csOnXferError = .hold) :
    readTransaction reg n s = raise .transport (.bus e)
      { afterHeldWindow s lo (.busXfer (readnTx s.params reg n) (some (.busErr e))) with
        xferPort := s.xferPort.skip 1 } := by
  rw [readTransaction, frame_busXfer_held _ h₀ hx (by rw [hp]; rfl)]
  rfl

end read

/-- A well-formed READN in a READY block is its transaction (R110). -/
theorem exec_readn_of_ready {reg : RegId} {n : Fin 16} {s t : State} (hn : n ≠ 0) (hl : s.life = .ready)
    (h : readTransaction reg n s = t) : exec (.readn reg n) s = .next t :=
  congrArg Host.Outcome.next ((if_neg hn).trans ((requireInit_of_ready hl _).trans h))

/-- Settles O13: the three ends of the transaction. -/
theorem readnRunsOneFramedTransfer : Obligations.ReadnRunsOneFramedTransfer := fun reg n _ _ hn hl h₀ =>
  ⟨fun _ rx hx h₁ => ⟨receivedBuf n rx, receivedBuf_getElem n rx,
      exec_readn_of_ready hn hl (readTransaction_ok reg n h₀ hn hx h₁)⟩,
    fun _ _ hx hp h₁ => exec_readn_of_ready hn hl (readTransaction_err reg n h₀ hx hp h₁),
    fun _ hx hp => exec_readn_of_ready hn hl (readTransaction_held reg n h₀ hx hp)⟩

/-! ### The address byte in a word (R101) -/

theorem addressByte_eq_append (p : Params) (reg : RegId) (dir : Dir) :
    addressByte p reg dir = (BitVec.ofBool dir.bit ++ regBase p reg : BitVec 8) := by
  cases dir with
  | read => exact readAddress_eq_append p reg
  | write => exact writeAddress_eq_append p reg

/-- A byte in a word has zeros above it. -/
theorem zeroExtend_byte (x : Byte) : x.zeroExtend 32 = (0#24 ++ x : BitVec 32) :=
  BitVec.setWidth_eq_append (x := x) (w := 32) (by decide)

/-- Settles O11: the word is 24 zeros, the direction bit and the base, side by side. -/
theorem encaddrAnswersTheAddressByte : Obligations.EncaddrAnswersTheAddressByte := by
  intro reg dir s
  refine ⟨(addressByte s.params reg dir).zeroExtend 32, ?_, ?_, ?_, rfl⟩
  all_goals rw [zeroExtend_byte, addressByte_eq_append]
  · rw [BitVec.extractLsb'_append_eq_of_add_le (by decide), BitVec.extractLsb'_append_eq_right]
  · rw [BitVec.getLsbD_append, if_pos (by decide), BitVec.getLsbD_append, if_neg (by decide)]
    cases dir <;> rfl
  · exact BitVec.extractLsb'_append_eq_left

end Sys2Proof.Machine
end

section
/-! PROOFS. Pin errors inside a transaction are absorbed (40_bus_framer.md R104): two states that differ only at the chip-select pin are run side by side (Twins), operation by operation, up to the command. The only premise is that the pin answers the drives an operation makes. -/

namespace Sys2Proof.Machine

variable {E P : Type}

/-- A state without what the chip-select pin gave it: its port, its line and its answers in the history. -/
def State.Of.erasePin (s : State.Of E P) : State.Of E P :=
  { s with csPort := Port.fresh, csLine := .low, history := s.history.map Event.eraseCsAnswer }

/-- Two states that differ at the chip-select pin only, where each pin answers its next `n` drives. -/
structure Twins (n : Nat) (s s' : State.Of E P) : Prop where
  same   : s.erasePin = s'.erasePin
  left   : ∀ k, k < n → s.csAt k ≠ none
  right  : ∀ k, k < n → s'.csAt k ≠ none

/-- The same result, in two states that differ at the chip-select pin only. -/
def TwinResults {α : Type} (n : Nat) (x x' : α × State.Of E P) : Prop := x.1 = x'.1 ∧ Twins n x.2 x'.2

section
variable {n : Nat} {s s' : State.Of E P}

theorem Twins.mono {m : Nat} (h : Twins n s s') (hmn : m ≤ n) : Twins m s s' :=
  ⟨h.same, fun k hk => h.left k (hk.trans_le hmn), fun k hk => h.right k (hk.trans_le hmn)⟩

theorem Twins.cal (h : Twins n s s') : s.cal = s'.cal := congrArg (·.cal) h.same
theorem Twins.life (h : Twins n s s') : s.life = s'.life := congrArg (·.life) h.same
theorem Twins.params (h : Twins n s s') : s.params = s'.params := congrArg (·.params) h.same
theorem Twins.writeAt (h : Twins n s s') (k : Nat) : s.writeAt k = s'.writeAt k := congrArg (·.writeAt k) h.same
theorem Twins.xferAt (h : Twins n s s') (k : Nat) : s.xferAt k = s'.xferAt k := congrArg (·.xferAt k) h.same
theorem Twins.drdyAt (h : Twins n s s') (k : Nat) : s.drdyAt k = s'.drdyAt k := congrArg (·.drdyAt k) h.same

/-- The next drive is answered on both sides. -/
theorem Twins.answers (h : Twins (n + 1) s s') : ∃ a a', s.csAt 0 = some a ∧ s'.csAt 0 = some a' := by
  obtain ⟨a, ha⟩ := Option.ne_none_iff_exists'.mp (h.left 0 (Nat.succ_pos n))
  obtain ⟨a', ha'⟩ := Option.ne_none_iff_exists'.mp (h.right 0 (Nat.succ_pos n))
  exact ⟨a, a', ha, ha'⟩

/-- The one result of both sides, and the two states. -/
theorem TwinResults.split {α : Type} {x x' : α × State.Of E P} (h : TwinResults n x x') :
    ∃ a t t', x = (a, t) ∧ x' = (a, t') ∧ Twins n t t' :=
  ⟨x.1, x.2, x'.2, rfl, Prod.ext h.1.symm rfl, h.2⟩

/-! ### The external events and the endings -/

theorem csDrive_erasePin (l : Level) (s : State.Of E P) :
    (csDrive l s).2.erasePin =
      { s.erasePin with csReq := l.request, history := s.erasePin.history ++ [.csDrive l none] } := by
  simp [csDrive, State.Of.erasePin, Event.eraseCsAnswer]

theorem busWrite_erasePin (tx : List Byte) (s : State.Of E P) :
    (busWrite tx s).2.erasePin = (busWrite tx s.erasePin).2 := by
  simp [busWrite, State.Of.erasePin, State.Of.writeAt, Event.eraseCsAnswer]

theorem busXfer_erasePin (tx : List Byte) (s : State.Of E P) :
    (busXfer tx s).2.erasePin = (busXfer tx s.erasePin).2 := by
  simp [busXfer, State.Of.erasePin, State.Of.xferAt, Event.eraseCsAnswer]

theorem drdyRead_erasePin (s : State.Of E P) : (drdyRead s).2.erasePin = (drdyRead s.erasePin).2 := by
  simp [drdyRead, State.Of.erasePin, State.Of.drdyAt, Event.eraseCsAnswer]

/-- A drive takes one answer on each side and forgets both. -/
theorem csDrive_twins (l : Level) (h : Twins (n + 1) s s') : Twins n (csDrive l s).2 (csDrive l s').2 where
  same  := by rw [csDrive_erasePin, csDrive_erasePin, h.same]
  left  := fun k hk => by rw [csDrive_csAt]; exact h.left _ (by omega)
  right := fun k hk => by rw [csDrive_csAt]; exact h.right _ (by omega)

theorem busWrite_twins (tx : List Byte) (h : Twins n s s') : TwinResults n (busWrite tx s) (busWrite tx s') :=
  ⟨h.writeAt 0, by rw [busWrite_erasePin, busWrite_erasePin, h.same], h.left, h.right⟩

theorem busXfer_twins (tx : List Byte) (h : Twins n s s') : TwinResults n (busXfer tx s) (busXfer tx s') :=
  ⟨h.xferAt 0, by rw [busXfer_erasePin, busXfer_erasePin, h.same], h.left, h.right⟩

theorem drdyRead_twins (h : Twins n s s') : TwinResults n (drdyRead s) (drdyRead s') :=
  ⟨h.drdyAt 0, by rw [drdyRead_erasePin, drdyRead_erasePin, h.same], h.left, h.right⟩

theorem respond_twins (r : Response E P) (h : Twins n s s') : Twins n (respond r s) (respond r s') :=
  ⟨congrArg (respond r) h.same, h.left, h.right⟩

theorem raise_twins (x : Status) (info : ErrPayload E P) (h : Twins n s s') : Twins n (raise x info s) (raise x info s') :=
  respond_twins _ h

theorem hang_twins (h : Twins n s s') : Twins n (hang s) (hang s') :=
  ⟨congrArg hang h.same, h.left, h.right⟩

theorem setCal_twins (cal : Calibration) (h : Twins n s s') : Twins n { s with cal := cal } { s' with cal := cal } :=
  ⟨congrArg (fun u => { u with cal := cal }) h.same, h.left, h.right⟩

/-- The NOT_INIT check looks at LIFE alone (R205). -/
theorem requireInit_twins {k k' : State.Of E P → State.Of E P} (h : Twins n s s') (hk : Twins n (k s) (k' s')) :
    Twins n (requireInit k s) (requireInit k' s') := by
  unfold requireInit
  rw [← h.life]
  cases s.life with
  | uninit => exact raise_twins _ _ h
  | ready => exact hk

/-! ### FRAME and READ_RAW -/

/-- FRAME takes at most two of the pin's answers and looks at neither; what it does is up to the bus answer (R100, R104). -/
theorem frame_twins {α : Type} {prim : State.Of E P → Option (BusAnswer α E) × State.Of E P}
    (hprim : ∀ {m s s'}, Twins m s s' → TwinResults m (prim s) (prim s')) (h : Twins (n + 2) s s') :
    TwinResults n (frame prim s) (frame prim s') := by
  obtain ⟨lo, lo', hlo, hlo'⟩ := h.answers
  obtain ⟨r, s₂, s₂', hp, hp', transferred⟩ := (hprim (csDrive_twins .low h)).split
  cases r with
  | none =>
    rw [frame_no_bus_answer hlo hp, frame_no_bus_answer hlo' hp']
    exact ⟨rfl, transferred.mono (Nat.le_succ n)⟩
  | some a =>
    have policy : deasserts s'.params.csOnXferError a = deasserts s.params.csOnXferError a := by rw [h.params]
    cases hd : deasserts s.params.csOnXferError a with
    | false =>
      rw [frame_held hlo hp hd, frame_held hlo' hp' (policy.trans hd)]
      exact ⟨rfl, transferred.mono (Nat.le_succ n)⟩
    | true =>
      obtain ⟨hi, hi', hhi, hhi'⟩ := transferred.answers
      rw [frame_closed hlo hp hd hhi, frame_closed hlo' hp' (policy.trans hd) hhi']
      exact ⟨rfl, csDrive_twins .high transferred⟩

theorem readRegister_twins (reg : RegId) (h : Twins (n + 2) s s') :
    TwinResults n (readRegister reg s) (readRegister reg s') := by
  obtain ⟨r, t, t', hf, hf', ht⟩ := (frame_twins (busXfer_twins [readAddress s.params reg, 0x00]) h).split
  unfold readRegister
  rw [← h.params, hf, hf']
  rcases r with _ | _ | _ <;> exact ⟨rfl, ht⟩

/-- The two reads drive the pin four times. -/
theorem readRaw_twins (h : Twins (n + 4) s s') : TwinResults n (readRaw s) (readRaw s') := by
  obtain ⟨r, t, t', hmsb, hmsb', ht⟩ := (readRegister_twins .rtdMsb h).split
  unfold readRaw
  rw [hmsb, hmsb']
  rcases r with _ | msb | _
  · exact ⟨rfl, ht.mono (Nat.le_add_right n 2)⟩
  · obtain ⟨r₂, u, u', hlsb, hlsb', hu⟩ := (readRegister_twins .rtdLsb ht).split
    simp only [hlsb, hlsb']
    rcases r₂ with _ | _ | _ <;> exact ⟨rfl, hu⟩
  · exact ⟨rfl, ht.mono (Nat.le_add_right n 2)⟩

/-! ### The commands -/

theorem writeTransaction_twins (tx : List Byte) (h : Twins (n + 2) s s') :
    Twins n (writeTransaction tx s) (writeTransaction tx s') := by
  obtain ⟨r, t, t', hf, hf', ht⟩ := (frame_twins (busWrite_twins tx) h).split
  unfold writeTransaction
  rw [hf, hf']
  rcases r with _ | _ | _
  · exact hang_twins ht
  · exact respond_twins _ ht
  · exact raise_twins _ _ ht

theorem readTransaction_twins (reg : RegId) (k : Fin 16) (h : Twins (n + 2) s s') :
    Twins n (readTransaction reg k s) (readTransaction reg k s') := by
  obtain ⟨r, t, t', hf, hf', ht⟩ := (frame_twins (busXfer_twins (readnTx s.params reg k)) h).split
  unfold readTransaction
  rw [← h.params, hf, hf']
  rcases r with _ | _ | _
  · exact hang_twins ht
  · exact respond_twins _ ht
  · exact raise_twins _ _ ht

theorem sampleReady_twins (h : Twins n s s') : Twins n (sampleReady s) (sampleReady s') := by
  obtain ⟨r, t, t', hd, hd', ht⟩ := (drdyRead_twins h).split
  unfold sampleReady
  rw [hd, hd']
  cases r with
  | none => exact hang_twins ht
  | some _ => exact respond_twins _ ht

theorem reportRaw_twins (h : Twins (n + 4) s s') : Twins n (reportRaw s) (reportRaw s') := by
  obtain ⟨r, t, t', hr, hr', ht⟩ := (readRaw_twins h).split
  unfold reportRaw
  rw [hr, hr']
  rcases r with _ | _ | _
  · exact hang_twins ht
  · exact respond_twins _ ht
  · exact raise_twins _ _ ht

theorem readAndConvert_twins (h : Twins (n + 4) s s') : Twins n (readAndConvert s) (readAndConvert s') := by
  obtain ⟨r, t, t', hr, hr', ht⟩ := (readRaw_twins h).split
  unfold readAndConvert
  rw [hr, hr']
  rcases r with _ | _ | _
  · exact hang_twins ht
  · simp only [ht.params, ht.cal]
    exact respond_twins _ ht
  · exact raise_twins _ _ ht

end

/-- Every command but INIT, whose own rule reads the pin's answer (R130). -/
theorem exec_twins {i : Instr} {s s' : State} (hi : i ≠ .init) (h : Twins 4 s s') :
    ∃ t t', exec i s = .next t ∧ exec i s' = .next t' ∧ Twins 0 t t' := by
  have quiet : Twins 0 s s' := h.mono (by decide)
  have window : Twins (0 + 2) s s' := h.mono (by decide)
  cases i with
  | init => exact absurd rfl hi
  | encaddr reg dir =>
    refine ⟨_, _, rfl, rfl, ?_⟩
    rw [h.params]
    exact respond_twins _ quiet
  | write reg val =>
    refine ⟨_, _, rfl, rfl, requireInit_twins quiet ?_⟩
    rw [h.params]
    exact writeTransaction_twins _ window
  | readn reg k =>
    refine ⟨_, _, rfl, rfl, ?_⟩
    split
    · exact raise_twins _ _ quiet
    · exact requireInit_twins quiet (readTransaction_twins reg k window)
  | config v m o w f =>
    refine ⟨_, _, rfl, rfl, requireInit_twins quiet ?_⟩
    rw [h.params]
    exact writeTransaction_twins _ window
  | setcal cal => exact ⟨_, _, rfl, rfl, requireInit_twins quiet (respond_twins _ (setCal_twins cal quiet))⟩
  | isrdy => exact ⟨_, _, rfl, rfl, requireInit_twins quiet (sampleReady_twins quiet)⟩
  | rdraw => exact ⟨_, _, rfl, rfl, requireInit_twins quiet (reportRaw_twins h)⟩
  | rdconv => exact ⟨_, _, rfl, rfl, requireInit_twins quiet (readAndConvert_twins h)⟩
  | convert raw =>
    refine ⟨_, _, rfl, rfl, requireInit_twins quiet ?_⟩
    rw [h.params, h.cal]
    exact respond_twins _ quiet

/-- A command only appends to the history (R60). -/
theorem exec_history {i : Instr} {s t : State} (h : exec i s = .next t) : ∃ es, t.history = s.history ++ es := by
  obtain ⟨s', es, after, ht⟩ := (exec_inv h).after
  exact ⟨es, (congrArg State.Of.history ht).trans after.history⟩

/-- Settles O35: the two states are twins, so the two runs end in twins, and what two runs append to one history is what they appended with the pin's answers erased. -/
theorem pinErrorsInTransactionsAreAbsorbed : Obligations.PinErrorsInTransactionsAreAbsorbed := by
  intro i s q hi hs hq
  obtain ⟨t, t', ht, ht', twins⟩ := exec_twins hi (s := s) (s' := { s with csPort := q }) ⟨rfl, hs, hq⟩
  obtain ⟨es, hes⟩ := exec_history ht
  obtain ⟨es', hes'⟩ := exec_history ht'
  refine ⟨t, t', es, es', ht, ht', hes, hes', ?_, ?_⟩
  · have erased : t.history.map Event.eraseCsAnswer = t'.history.map Event.eraseCsAnswer := congrArg (·.history) twins.same
    rw [hes, hes', List.map_append, List.map_append] at erased
    exact List.append_cancel_left erased
  · exact congrArg (fun u => { u with csPort := t.csPort, csLine := t.csLine, history := t.history }) twins.same.symm

end Sys2Proof.Machine
end

section
/-! PROOFS. The driver's commands (41_driver_ops.md): CONFIG is WRITE's transaction with the configuration word; INIT and ISRDY are one event of a pin each and SETCAL none; RDRAW and RDCONV end alike when READ_RAW fails, and READ_RAW fails with the sub-read that does. -/

namespace Sys2Proof.Machine

variable {E P : Type}

/-! ### The commands that read the sample; READ_RAW ends with the sub-read that fails (R150, R151) -/

section failedRead
variable {s s₁ s₂ : State.Of E P} {msb : Byte} {e : E}

theorem readRaw_of_msb_error (h : readRegister .rtdMsb s = (some (.busErr e), s₁)) :
    readRaw s = (some (.busErr e), s₁) := by
  simp only [readRaw, h]

theorem readRaw_of_lsb_error (hmsb : readRegister .rtdMsb s = (some (.ok msb), s₁))
    (h : readRegister .rtdLsb s₁ = (some (.busErr e), s₂)) : readRaw s = (some (.busErr e), s₂) := by
  simp only [readRaw, hmsb, h]

end failedRead

/-- A failed READ_RAW in a READY block ends both commands that read the sample with E_TRANSPORT (R150, R170). -/
theorem exec_of_readRaw_error {i : Instr} {s t : State} {e : BusError} (hi : i = .rdraw ∨ i = .rdconv) (hl : s.life = .ready)
    (h : readRaw s = (some (.busErr e), t)) : exec i s = .next (raise .transport (.bus e) t) := by
  rcases hi with rfl | rfl
  · refine congrArg Host.Outcome.next ((requireInit_of_ready hl _).trans ?_)
    rw [reportRaw, h]
  · refine congrArg Host.Outcome.next ((requireInit_of_ready hl _).trans ?_)
    rw [readAndConvert, h]

/-- Settles O20: the sub-read of RTD_MSB fails with or without the last drive, and READ_RAW with it. -/
theorem failedMsbReadEndsRdrawAndRdconv : Obligations.FailedMsbReadEndsRdrawAndRdconv := fun _ _ _ _ hi hl h₀ hx =>
  ⟨fun _ hp h₁ => exec_of_readRaw_error hi hl (readRaw_of_msb_error (readRegister_err h₀ h₁ hx hp)),
    fun hp => exec_of_readRaw_error hi hl (readRaw_of_msb_error (readRegister_held h₀ hx hp))⟩

/-- Settles O21: the sub-read of RTD_MSB is a closed window; the one of RTD_LSB takes the answers after it and fails with or without the last drive. -/
theorem failedLsbReadKeepsNothing : Obligations.FailedLsbReadKeepsNothing := by
  intro i s c₀ c₁ c₂ rx e hi hl h₀ h₁ h₂ hx₀ hx₁ s₁
  have hmsb : readRegister .rtdMsb s = (some (.ok rx[1]), { s₁ with xferPort := s.xferPort.skip 1 }) :=
    readRegister_ok h₀ h₁ hx₀
  have drive (k : Nat) : { s₁ with xferPort := s.xferPort.skip 1 }.csAt k = s.csAt (2 + k) :=
    Port.reply_skip _ s.csPort 2 k
  have transfer : { s₁ with xferPort := s.xferPort.skip 1 }.xferAt 0 = some (.busErr e) :=
    (Port.reply_skip _ s.xferPort 1 0).trans hx₁
  have two : (s.xferPort.skip 1).skip 1 = s.xferPort.skip 2 := Port.skip_skip ..
  rw [← two]
  exact ⟨fun _ hp h₃ => exec_of_readRaw_error hi hl
      (readRaw_of_lsb_error hmsb (readRegister_err ((drive 0).trans h₂) ((drive 1).trans h₃) transfer hp)),
    fun hp => exec_of_readRaw_error hi hl
      (readRaw_of_lsb_error hmsb (readRegister_held ((drive 0).trans h₂) transfer hp))⟩

/-- Settles O19: RDRAW responds with what READ_RAW composed (readRaw_ok). -/
theorem rdrawComposesTheSample : Obligations.RdrawComposesTheSample := by
  intro s c₀ c₁ c₂ c₃ rx₁ rx₂ hl h₀ h₁ h₂ h₃ hx₁ hx₂
  refine congrArg Host.Outcome.next ((requireInit_of_ready hl reportRaw).trans ?_)
  rw [reportRaw, readRaw_ok h₀ h₁ h₂ h₃ hx₁ hx₂]
  rfl

/-! ### CONFIG (R135, R136) -/

/-- The low byte of CONFIG's word is the configuration word (R77, R79). -/
theorem low_byte_encodeWord_config (v m o : Bool) (w : Wiring) (f : Filter) :
    (encodeWord (.config v m o w f)).extractLsb' 0 8 = cfgWord v m o w f := by
  rw [encodeWord_config, BitVec.extractLsb'_append_eq_right]

/-- CONFIG in a READY block is WRITE's transaction on the configuration register (R135). -/
theorem exec_config_of_ready {v m o : Bool} {w : Wiring} {f : Filter} {s t : State} (hl : s.life = .ready)
    (h : writeTransaction [writeAddress s.params .config, (encodeWord (.config v m o w f)).extractLsb' 0 8] s = t) :
    exec (.config v m o w f) s = .next t := by
  rw [low_byte_encodeWord_config] at h
  exact congrArg Host.Outcome.next ((requireInit_of_ready hl _).trans h)

/-- Settles O16: the three ends of the transaction. -/
theorem configWritesTheConfigurationWord : Obligations.ConfigWritesTheConfigurationWord := fun _ _ _ _ _ _ _ hl h₀ =>
  ⟨fun _ hw h₁ => exec_config_of_ready hl (writeTransaction_ok _ h₀ hw h₁),
    fun _ _ hw hp h₁ => exec_config_of_ready hl (writeTransaction_err _ h₀ hw hp h₁),
    fun _ hw hp => exec_config_of_ready hl (writeTransaction_held _ h₀ hw hp)⟩

theorem wiring_bit_xor (w w' : Wiring) : (w.bit ^^ w'.bit) = decide (w ≠ w') := by
  cases w <;> cases w' <;> rfl

theorem filter_bit_xor (f f' : Filter) : (f.bit ^^ f'.bit) = decide (f ≠ f') := by
  cases f <;> cases f' <;> rfl

/-- Settles O8: the word is its fields side by side (O7), and the exclusive or of two such words is taken field by field. -/
theorem configWordFieldsAreIndependent : Obligations.ConfigWordFieldsAreIndependent := by
  intro v m o v' m' o' w w' f f'
  rw [configWordHasItsFieldsInPlace, configWordHasItsFieldsInPlace]
  constructor
  · rw [BitVec.xor_append]
    simp only [BitVec.xor_append, BitVec.ofBool_xor_ofBool, BitVec.xor_self, wiring_bit_xor, filter_bit_xor]
  · rw [BitVec.extractLsb'_append_eq_of_le (by decide), BitVec.extractLsb'_append_eq_right]
    rfl

/-! ### One event or none: INIT, SETCAL, ISRDY (R130, R140, R145) -/

/-- A drive with the answer written out. -/
theorem csDrive_of_answer {s : State.Of E P} {a : Option (PinAnswer Unit P)} (l : Level) (h : s.csAt 0 = a) :
    csDrive l s = (a,
      { s with
        csReq := l.request, csLine := lineAfter l (Config.lineDraw (s.csPort.asked + 1)) a
        csPort := s.csPort.skip 1, history := s.history ++ [.csDrive l a] }) := by
  subst h; rfl

/-- A sample of the ready pin with the answer written out. -/
theorem drdyRead_of_answer {s : State.Of E P} {a : Option (PinAnswer Level P)} (h : s.drdyAt 0 = a) :
    drdyRead s = (a, { s with drdyPort := s.drdyPort.skip 1, history := s.history ++ [.drdyRead a] }) := by
  subst h; rfl

/-- Settles O15: the one drive answers the error, and the error branch of R130 writes LIFE alone. -/
theorem failedInitLeavesNoInstance : Obligations.FailedInitLeavesNoInstance := by
  intro s p h
  refine congrArg Host.Outcome.next (a₁ := construct s) ?_
  rw [construct, csDrive_of_answer .high h]
  rfl

/-- Settles O17: SETCAL writes CAL and responds. -/
theorem setcalOverwritesTheCalibration : Obligations.SetcalOverwritesTheCalibration := fun _ _ hl =>
  congrArg Host.Outcome.next (requireInit_of_ready hl _)

/-- ISRDY's answer word is 1 exactly for LOW; a pin error reads as 0 (R145, R208). -/
theorem zeroExtend_readyBit (a : PinAnswer Level PinError) :
    (readyBit a).zeroExtend 32 = if a = .ok .low then (1 : BitVec 32) else 0 := by
  match a with
  | .ok .low => rfl
  | .ok .high => rfl
  | .pinErr _ => rfl

/-- Settles O18: one sample of the ready pin, and the answer word is zeroExtend_readyBit. -/
theorem isrdySamplesTheReadyPinOnce : Obligations.IsrdySamplesTheReadyPinOnce := by
  intro s a hl h
  refine congrArg Host.Outcome.next ((requireInit_of_ready hl sampleReady).trans ?_)
  rw [sampleReady, drdyRead_of_answer h, ← zeroExtend_readyBit]
  rfl

end Sys2Proof.Machine
end

section
/-! PROOFS. The conversion (42_conversion.md): CONV goes through the 32-bit product and the LUT alone (conv_congr, conv_eq_ok_iff), CONVERT and RDCONV are what their rules make of its result, and below 2^31 the resistance is the exact quotient, from which the bounds and the monotonicity follow. -/

namespace Sys2Proof.Machine

/-! ### The commands that convert (R160, R170) -/

section commands

variable {s : State} {raw : RawSample} {c : ConvResult}

/-- CONVERT in a READY block responds with its conversion (R160). -/
theorem exec_convert_of_ready (hl : s.life = .ready) (h : conv s.params raw s.cal = c) :
    exec (.convert raw) s = .next (respond (convertResponse c) s) := by
  subst h
  exact congrArg Host.Outcome.next (requireInit_of_ready hl _)

/-- RDCONV in a READY block responds with the conversion of the sample that READ_RAW answers (R170). -/
theorem exec_rdconv_of_ready {t : State} (hl : s.life = .ready) (hr : readRaw s = (some (.ok raw), t))
    (h : conv t.params raw t.cal = c) : exec .rdconv s = .next (respond (rdconvResponse c) t) := by
  subst h
  refine congrArg Host.Outcome.next ((requireInit_of_ready hl readAndConvert).trans ?_)
  rw [readAndConvert, hr]

end commands

/-- Settles O23: CONVERT responds with the conversion, whose three results are conv_eq_ok, conv_eq_range and conv_eq_ovf. -/
theorem convertAppliesTheConversion : Obligations.ConvertAppliesTheConversion := fun _ _ hl =>
  ⟨fun h => ⟨fun _ ht => exec_convert_of_ready hl (conv_eq_ok h ht), fun ht => exec_convert_of_ready hl (conv_eq_range h ht)⟩,
    fun h hp => exec_convert_of_ready hl (conv_eq_ovf h hp)⟩

/-- Settles O24: READ_RAW answers {msb, lsb} and leaves CAL and the parameters (readRaw_ok); then the three results of the conversion. -/
theorem rdconvReadsAndConverts : Obligations.RdconvReadsAndConverts := by
  intro s c₀ c₁ c₂ c₃ rx₁ rx₂ hl h₀ h₁ h₂ h₃ hx₁ hx₂
  have hr := readRaw_ok h₀ h₁ h₂ h₃ hx₁ hx₂
  exact ⟨fun h => ⟨fun _ ht => exec_rdconv_of_ready hl hr (conv_eq_ok h ht), fun ht => exec_rdconv_of_ready hl hr (conv_eq_range h ht)⟩,
    fun h hp => exec_rdconv_of_ready hl hr (conv_eq_ovf h hp)⟩

/-! ### What the conversion reads (R161, R166, R178) -/

section reads

variable {p p' : Params} {raw raw' : RawSample} {cal cal' : Calibration}

/-- CONV reads the sample, CAL and OVF_POLICY through the product only, and beside it the LUT (R166). -/
theorem conv_congr (hprod : scaledProduct p.ovfPolicy raw cal = scaledProduct p'.ovfPolicy raw' cal') (hlut : p.lut = p'.lut) :
    conv p raw cal = conv p' raw' cal' := by
  unfold conv
  rw [hprod, hlut]

/-- CONV answers Ovf exactly when there is no product (R162, R166). -/
theorem conv_eq_ovf_iff : conv p raw cal = .ovf ↔ scaledProduct p.ovfPolicy raw cal = none := by
  unfold conv
  cases scaledProduct p.ovfPolicy raw cal with
  | none => simp
  | some x => cases h : Lut.lookup p.lut (ohmsOfProduct x) <;> simp [h]

/-- CONV answers a resistance and a temperature exactly when there is a product, with its resistance and the LUT's temperature for it (R163 to R166). -/
theorem conv_eq_ok_iff {q : Ohms} {t : Temperature} :
    conv p raw cal = .ok q t ↔
      ∃ x, scaledProduct p.ovfPolicy raw cal = some x ∧ ohmsOfProduct x = q ∧ Lut.lookup p.lut q = some t := by
  unfold conv
  constructor
  · intro h
    split at h
    · cases h
    · next x hx =>
      split at h
      · cases h
      · next ht =>
        cases h
        exact ⟨x, hx, rfl, ht⟩
  · rintro ⟨x, hx, rfl, ht⟩
    simp only [hx, ht]

/-- CONV reads the sample through its ratio (R161). -/
theorem conv_congr_ratio (p : Params) (cal : Calibration) (h : ratio raw = ratio raw') : conv p raw cal = conv p raw' cal := by
  refine conv_congr ?_ rfl
  unfold scaledProduct exactProduct
  rw [h]

theorem exec_convert_congr_ratio (h : ratio raw = ratio raw') (s : State) : exec (.convert raw) s = exec (.convert raw') s := by
  simp only [exec, execConvert, conv_congr_ratio _ _ h]

end reads

/-- Settles O25: the bits above bit 0 are the ratio, and the conversion reads no other part of the sample. -/
theorem faultFlagDoesNotAffectConversion : Obligations.FaultFlagDoesNotAffectConversion := by
  intro p raw raw' cal hratio
  refine ⟨conv_congr_ratio p cal hratio, fun s => ?_⟩
  obtain ⟨t, ht, -⟩ := exec_effect (.convert raw) s
  exact ⟨t, ht, exec_convert_congr_ratio hratio s ▸ ht⟩

/-- Settles O29: the two conversions are one (conv_congr), and both states end in the response to it. -/
theorem convertDependsOnCalAndLutOnly : Obligations.ConvertDependsOnCalAndLutOnly := by
  intro raw s s' hl hl' hcal hlut hpol
  have hconv : conv s'.params raw s'.cal = conv s.params raw s.cal := conv_congr (by rw [hpol, hcal]) hlut.symm
  exact ⟨_, exec_convert_of_ready hl rfl, exec_convert_of_ready hl' hconv⟩

/-! ### Bounds of the product (R162, R176) -/

section bounds

variable {raw : RawSample} {cal : Calibration}

/-- Full scale has the greatest product (R161, R162). -/
theorem product_le_full_scale (raw : RawSample) {bound : Nat} (h : cal.toNat ≤ bound) : raw.toNat / 2 * cal.toNat ≤ 32767 * bound := by
  have := raw.isLt
  exact Nat.mul_le_mul (by omega) h

/-- Below 2^31 neither the product nor the narrowing loses a bit (R163, R164, R176). -/
theorem toNat_ohmsOfProduct_ofNat {p : Nat} (h : p < 2 ^ 31) : (ohmsOfProduct (BitVec.ofNat 32 p)).toNat = p / 32768 := by
  rw [ohmsOfProduct_ofNat, BitVec.toNat_ofNat]
  omega

/-- Below 2^31 the resistance is the exact quotient, under either policy (R176). -/
theorem resistance_of_lt (policy : OvfPolicy) (h : raw.toNat / 2 * cal.toNat < 2 ^ 31) :
    ∃ x, scaledProduct policy raw cal = some x ∧ (ohmsOfProduct x).toNat = raw.toNat / 2 * cal.toNat / 32768 :=
  ⟨_, scaledProduct_eq_some (.inl (by omega)), toNat_ohmsOfProduct_ofNat h⟩

/-- Up to CAL 65538 no sample overflows or is truncated (R176). -/
theorem product_lt_of_cal_le (raw : RawSample) (h : cal.toNat ≤ 65538) : raw.toNat / 2 * cal.toNat < 2 ^ 31 :=
  Nat.lt_of_le_of_lt (product_le_full_scale raw h) (by decide)

/-- The full-scale resistance (R176). -/
theorem full_scale_resistance (policy : OvfPolicy) (hraw : raw.toNat / 2 = 32767) (h : cal.toNat ≤ 65538) :
    ∃ x, scaledProduct policy raw cal = some x ∧ (ohmsOfProduct x).toNat = cal.toNat - (cal.toNat + 32767) / 32768 := by
  obtain ⟨x, hx, hq⟩ := resistance_of_lt policy (product_lt_of_cal_le raw h)
  refine ⟨x, hx, ?_⟩
  rw [hq, hraw]
  omega

end bounds

/-- Settles O26: 32767 * 131076 is below 2^32 and 32767 * 131077 is not. -/
theorem noOverflowUpToTheBound : Obligations.NoOverflowUpToTheBound := by
  refine ⟨fun p raw cal h => ?_, fun p cal h hp => conv_eq_ovf ?_ hp⟩
  · have hlt : raw.toNat / 2 * cal.toNat < 2 ^ 32 := Nat.lt_of_le_of_lt (product_le_full_scale raw h) (by decide)
    have hprod (policy : OvfPolicy) := scaledProduct_eq_some (policy := policy) (.inl hlt)
    exact ⟨by simp [conv_eq_ovf_iff, hprod], conv_congr (by rw [hprod, hprod]) rfl⟩
  · change 2 ^ 32 ≤ 32767 * cal.toNat
    omega

/-- Settles O27: the exact quotient, its value at full scale, and that value for 40000. -/
theorem resistanceIsTheExactQuotient : Obligations.ResistanceIsTheExactQuotient :=
  ⟨fun policy _ _ h => resistance_of_lt policy h, fun policy _ _ hraw _ h => full_scale_resistance policy hraw h,
    fun policy => full_scale_resistance (raw := 0xFFFE) (cal := 40000) policy (by decide) (by decide)⟩

/-! ### Monotonicity (R177) -/

/-- Up to CAL 65538 both resistances are exact quotients of ordered products. -/
theorem resistance_mono (policy : OvfPolicy) {raw raw' : RawSample} {cal : Calibration} (hcal : cal.toNat ≤ 65538) (hraw : raw ≤ raw') :
    ∃ x x', scaledProduct policy raw cal = some x ∧ scaledProduct policy raw' cal = some x' ∧ ohmsOfProduct x ≤ ohmsOfProduct x' := by
  obtain ⟨x, hx, hq⟩ := resistance_of_lt policy (product_lt_of_cal_le raw hcal)
  obtain ⟨x', hx', hq'⟩ := resistance_of_lt policy (product_lt_of_cal_le raw' hcal)
  refine ⟨x, x', hx, hx', BitVec.le_def.mpr ?_⟩
  rw [hq, hq']
  gcongr
  exact BitVec.le_def.mp hraw

/-- Two inputs of a LUT in order are one input or strictly ordered ones, of which LUT_MONO speaks (R6). -/
theorem lookup_eq_or_lt {l : Lut} {q q' : Ohms} {t t' : Temperature} (hq : q ≤ q') (ht : Lut.lookup l q = some t)
    (ht' : Lut.lookup l q' = some t') : t = t' ∨ q < q' := by
  rcases Nat.lt_or_eq_of_le (BitVec.le_def.mp hq) with h | h
  · exact .inr (BitVec.lt_def.mpr h)
  · obtain rfl := BitVec.eq_of_toNat_eq h
    exact .inl (Option.some.inj (ht.symm.trans ht'))

/-- Settles O28: the resistance by resistance_mono, the temperature by lookup_eq_or_lt; at CAL 65539 the resistance of the last step falls from 65535 to 0. -/
theorem conversionIsMonotonicUpToTheBound : Obligations.ConversionIsMonotonicUpToTheBound := by
  refine ⟨?_, fun policy _ _ _ => resistance_mono policy, ?_⟩
  · intro p raw raw' cal q q' t t' hcal hraw h h'
    obtain ⟨x, hx, rfl, ht⟩ := conv_eq_ok_iff.mp h
    obtain ⟨x', hx', rfl, ht'⟩ := conv_eq_ok_iff.mp h'
    obtain ⟨y, y', hy, hy', hq⟩ := resistance_mono p.ovfPolicy hcal hraw
    obtain rfl := Option.some.inj (hx.symm.trans hy)
    obtain rfl := Option.some.inj (hx'.symm.trans hy')
    refine ⟨hq, fun hinc => ?_, fun hdec => ?_⟩
    · rcases lookup_eq_or_lt hq ht ht' with rfl | hlt
      · exact BitVec.le_refl _
      · exact BitVec.le_of_lt (hinc _ _ _ _ hlt ht ht')
    · rcases lookup_eq_or_lt hq ht ht' with rfl | hlt
      · exact BitVec.le_refl _
      · exact BitVec.le_of_lt (hdec _ _ _ _ hlt ht ht')
  · exact ⟨0xFFFC, 0xFFFE, 65539, BitVec.ofNat 32 (32766 * 65539), BitVec.ofNat 32 (32767 * 65539), by decide, by decide,
      scaledProduct_eq_some (.inl (by decide)), scaledProduct_eq_some (.inl (by decide)), by decide⟩

end Sys2Proof.Machine
end

section
/-! PROOFS. The exceptions (60_exceptions.md): every response of a command is one of seven kinds, each with the commands it comes from and its payload (Answer, R200 to R205), and a conversion's response comes after both reads of the sample (R206, R210); no step and no command is without a next state (R215, R216). -/

namespace Sys2Proof.Machine

/-! ### The responses of the commands (R200 to R202, R205) -/

/-- The commands that access the bus (R56). -/
def AccessesBus (i : Instr) : Prop :=
  (∃ a b, i = .write a b) ∨ (∃ a b, i = .readn a b) ∨ (∃ a b c d e, i = .config a b c d e) ∨ i = .rdraw ∨ i = .rdconv

/-- The commands that convert a sample (R160, R170). -/
def Converts (i : Instr) : Prop := (∃ a, i = .convert a) ∨ i = .rdconv

/-- What a command `i` that took `s` to `t` can have responded: success without a payload, or an error with its other fields 0, from the commands and with the payload that R200 to R202 give it. -/
inductive Answer (i : Instr) (s t : State) : Response BusError PinError → Prop where
  | ok {r : Response BusError PinError} (hs : r.status = .ok) (he : r.err = .none) : Answer i s t r
  | transport (hi : AccessesBus i) (e : BusError) {es : List (Event BusError PinError)} (history : t.history = s.history ++ es)
      (answered : ∃ ev ∈ es, ev.busErrorOf = some e) : Answer i s t { status := .transport, err := .bus e }
  | pin (hi : i = .init) (p : PinError) : Answer i s t { status := .pin, err := .pin p }
  | illegal (hi : i.wellFormed = false) : Answer i s t { status := .illegal }
  | notInit (hl : s.life = .uninit) (hi : i ≠ .init) (he : ∀ reg dir, i ≠ .encaddr reg dir) : Answer i s t { status := .notInit }
  | mulOvf (hi : Converts i) : Answer i s t { status := .mulOvf }
  | lutRange (hi : Converts i) : Answer i s t { status := .lutRange }

section
variable {i : Instr} {s t : State} {r : Response BusError PinError}

theorem convertResponse_answer (hi : Converts i) (c : ConvResult) : Answer i s t (convertResponse c) := by
  cases c with
  | ok _ _ => exact .ok rfl rfl
  | ovf => exact .mulOvf hi
  | range _ => exact .lutRange hi

theorem rdconvResponse_answer (hi : Converts i) (c : ConvResult) : Answer i s t (rdconvResponse c) := by
  cases c with
  | ok _ _ => exact .ok rfl rfl
  | ovf => exact .mulOvf hi
  | range _ => exact .lutRange hi

/-- FRAMEs respond what their command makes of an Ok answer, or the bus error that ended them. -/
theorem Ended.answer {α : Type} {good : α → Response BusError PinError} (h : Ended s good t) (hi : AccessesBus i)
    (hgood : ∀ a, Answer i s t (good a)) (hr : t.resp = some r) : Answer i s t r := by
  cases h with
  | hung _ _ _ => cases hr
  | done a _ _ _ =>
    cases hr
    exact hgood a
  | failed e after framed _ =>
    cases hr
    obtain ⟨-, -, answered, -⟩ := framed
    exact .transport hi e after.history answered

theorem Effect.answer (h : Effect s i t) (hr : t.resp = some r) : Answer i s t r := by
  cases h with
  | write _ _ _ h => exact h.answer (.inl ⟨_, _, rfl⟩) (fun _ => .ok rfl rfl) hr
  | readn _ _ _ _ h => exact h.answer (.inr (.inl ⟨_, _, rfl⟩)) (fun _ => .ok rfl rfl) hr
  | config _ _ _ _ _ _ h => exact h.answer (.inr (.inr (.inl ⟨_, _, _, _, _, rfl⟩))) (fun _ => .ok rfl rfl) hr
  | rdraw _ h => exact h.answer (.inr (.inr (.inr (.inl rfl)))) (fun _ => .ok rfl rfl) hr
  | rdconv _ h => exact h.answer (.inr (.inr (.inr (.inr rfl)))) (fun _ => rdconvResponse_answer (.inr rfl) _) hr
  | encaddr _ _ => cases hr; exact .ok rfl rfl
  | zeroCount _ => cases hr; exact .illegal rfl
  | noInstance _ hl hi he => cases hr; exact .notInit hl hi he
  | initHung _ => cases hr
  | initOk _ _ => cases hr; exact .ok rfl rfl
  | initErr p _ => cases hr; exact .pin rfl p
  | setcal _ _ => cases hr; exact .ok rfl rfl
  | isrdyHung _ _ => cases hr
  | isrdyOk _ _ _ => cases hr; exact .ok rfl rfl
  | convert raw _ => cases hr; exact convertResponse_answer (.inl ⟨raw, rfl⟩) _

end

/-- Settles O32: each kind of Answer has one status, and E_ILLEGAL's has an ill-formed command. -/
theorem statusesComeFromTheirCommands : Obligations.StatusesComeFromTheirCommands := by
  intro i s t r hw h _ hr
  cases (exec_inv h).answer hr with
  | ok hs he => simp [hs, he]
  | transport hi e _ _ => exact ⟨fun _ => ⟨hi, e, rfl⟩, nofun, nofun, nofun, nofun, nofun, nofun⟩
  | pin hi p => exact ⟨nofun, fun _ => ⟨hi, p, rfl⟩, nofun, nofun, nofun, nofun, nofun⟩
  | illegal hi => cases hw.symm.trans hi
  | notInit hl hi he => exact ⟨nofun, nofun, nofun, fun _ => ⟨hl, hi, he, rfl⟩, nofun, nofun, nofun⟩
  | mulOvf hi => exact ⟨nofun, nofun, nofun, nofun, fun _ => ⟨hi, rfl⟩, nofun, nofun⟩
  | lutRange hi => exact ⟨nofun, nofun, nofun, nofun, nofun, fun _ => ⟨hi, rfl⟩, nofun⟩

/-- Settles O33: of the kinds of Answer only the transport error has a bus payload, and one of the command's events answered with it. -/
theorem transportErrorsPassOnVerbatim : Obligations.TransportErrorsPassOnVerbatim := by
  intro i s t r e h _ hr herr
  cases (exec_inv h).answer hr with
  | ok _ he => cases he.symm.trans herr
  | transport _ _ history answered =>
    cases herr
    obtain ⟨ev, hmem, hev⟩ := answered
    obtain ⟨pre, post, rfl⟩ := List.append_of_mem hmem
    exact ⟨pre, ev, post, history, hev⟩
  | pin _ _ => cases herr
  | illegal _ => cases herr
  | notInit _ _ _ => cases herr
  | mulOvf _ => cases herr
  | lutRange _ => cases herr

/-- Settles O31: exec_of_uninit for a well-formed command. -/
theorem commandsNeedAnInstance : Obligations.CommandsNeedAnInstance := by
  intro i s hw hi he hl
  rw [exec_of_uninit hl hi he, hw]
  rfl

/-! ### A conversion's response comes after both reads (R206, R210) -/

section
variable {E P : Type} {s t : State.Of E P}

/-- A FRAME that ends with Ok had all three of its answers. -/
theorem frame_eq_ok {α : Type} {prim : State.Of E P → Option (BusAnswer α E) × State.Of E P} {a : α}
    (h : frame prim s = (some (.ok a), t)) :
    ∃ lo s₂ hi, s.csAt 0 = some lo ∧ prim (csDrive .low s).2 = (some (.ok a), s₂) ∧ s₂.csAt 0 = some hi := by
  cases hlo : s.csAt 0 with
  | none => rw [frame_no_assert hlo] at h; cases h
  | some lo =>
    rcases hp : prim (csDrive .low s).2 with ⟨_ | r, s₂⟩
    · rw [frame_no_bus_answer hlo hp] at h; cases h
    cases hd : deasserts s.params.csOnXferError r with
    | false => rw [frame_held hlo hp hd] at h; cases h; cases hd
    | true =>
      cases hhi : s₂.csAt 0 with
      | none => rw [frame_no_deassert hlo hp hd hhi] at h; cases h
      | some hi =>
        rw [frame_closed hlo hp hd hhi] at h
        cases h
        exact ⟨lo, s₂, hi, rfl, rfl, hhi⟩

/-- The three events of a successful sub-read (R150). -/
def readEvents (p : Params) (reg : RegId) (lo hi : PinAnswer Unit P) (rx : List Byte) : List (Event E P) :=
  [.csDrive .low (some lo), .busXfer [readAddress p reg, 0x00] (some (.ok rx)), .csDrive .high (some hi)]

theorem readRegister_eq_ok {reg : RegId} {b : Byte} (h : readRegister reg s = (some (.ok b), t)) :
    t.params = s.params ∧ ∃ lo hi rx, t.history = s.history ++ readEvents s.params reg lo hi rx := by
  have hrun := h
  unfold readRegister at hrun
  split at hrun
  · cases hrun
  · next rx _ hframe =>
    obtain ⟨lo, s₂, hi, hlo, hbus, hhi⟩ := frame_eq_ok hframe
    obtain ⟨hrx, rfl⟩ := Prod.mk.inj hbus
    have hhi : s.csAt 1 = some hi := (csDrive_csAt 0 s .low).symm.trans hhi
    obtain ⟨-, rfl⟩ := Prod.mk.inj (h.symm.trans (readRegister_ok hlo hhi hrx))
    exact ⟨rfl, lo, hi, _, rfl⟩
  · cases hrun

/-- A READ_RAW that answers a sample made the events of two successful sub-reads (R150, R152). -/
theorem readRaw_eq_ok {raw : RawSample} (h : readRaw s = (some (.ok raw), t)) :
    ∃ c₀ c₁ b₁ c₂ c₃ b₂, t.history = s.history ++
      (readEvents s.params .rtdMsb c₀ c₁ b₁ ++ readEvents s.params .rtdLsb c₂ c₃ b₂) := by
  unfold readRaw at h
  split at h
  · cases h
  · cases h
  · next hmsb =>
    split at h
    · cases h
    · cases h
    · next hlsb =>
      cases h
      obtain ⟨hparams, c₀, c₁, b₁, h₁⟩ := readRegister_eq_ok hmsb
      obtain ⟨-, c₂, c₃, b₂, h₂⟩ := readRegister_eq_ok hlsb
      exact ⟨c₀, c₁, b₁, c₂, c₃, b₂, by rw [h₂, h₁, hparams, List.append_assoc]⟩

end

/-- Settles O34: in an UNINIT block, without an answer or with a failed read RDCONV has no conversion's status; otherwise readRaw_eq_ok has the events. -/
theorem conversionErrorsFollowBothReads : Obligations.ConversionErrorsFollowBothReads := by
  intro s t r h _ hr hstatus
  obtain rfl : requireInit readAndConvert s = t := Host.Outcome.next.inj h
  rcases requireInit_cases readAndConvert s with ⟨-, hrun⟩ | ⟨-, hrun⟩
  · rw [hrun] at hr
    cases hr
    simp at hstatus
  · rw [hrun] at hr ⊢
    unfold readAndConvert at hr ⊢
    rcases hread : readRaw s with ⟨_ | raw | e, s'⟩
    · rw [hread] at hr
      cases hr
    · obtain ⟨c₀, c₁, b₁, c₂, c₃, b₂, history⟩ := readRaw_eq_ok hread
      exact ⟨c₀, c₁, c₂, c₃, b₁, b₂, history⟩
    · rw [hread] at hr
      cases hr
      simp at hstatus

/-! ### Nothing stops the block (R215, R216) -/

theorem exec_next (i : Instr) (s : State) : ∃ t, exec i s = .next t := by
  obtain ⟨t, ht, -⟩ := exec_effect i s
  exact ⟨t, ht⟩

theorem runCommand_next (c : Command) (s : State) : ∃ t, runCommand exec c s = .next t := by
  cases hd : decode c with
  | error _ => exact ⟨_, runCommand_of_decode_error hd s⟩
  | ok i => rw [runCommand_of_decode_ok hd]; exact exec_next i s

/-- Settles O44: a waiting block stays as it is, and an accepted command ends in a next state, legal or not. -/
theorem nothingStopsTheBlock : Obligations.NothingStopsTheBlock := by
  refine ⟨fun s => ?_, exec_next⟩
  cases hp : s.phase with
  | busy => exact ⟨s, step_of_busy hp⟩
  | idle =>
    cases hc : s.commands with
    | nil => exact ⟨s, step_of_no_command hc⟩
    | cons c rest => rw [step_of_idle hp hc]; exact runCommand_next c (accept rest s)

end Sys2Proof.Machine
end

section
/-! PROOFS. Reset and hazards (70_reset_and_hazards.md): what a successful INIT leaves (R241); a command waits exactly when one of its events is unanswered (Completion, R243); answered commands respond, one after another, until the run ends (R255, R256); and a CONVERT sees the SETCAL before it (R252). -/

namespace Sys2Proof.Machine

/-! ### A successful INIT (R241) -/

/-- Settles O14: the one drive answers Ok, and the Ok branch of R130 writes CAL and LIFE. -/
theorem initConstructsAnInstance : Obligations.InitConstructsAnInstance := by
  intro s u h
  refine congrArg Host.Outcome.next (a₁ := construct s) ?_
  rw [construct, csDrive_of_answer .high h]
  rfl

/-! ### A command responds or waits (R200, R243) -/

/-- How a command that took `s` to `t` ended: with a response after events that were all answered, or waiting for one that was not. -/
inductive Completion (s t : State) : Prop where
  | responded {es : List (Event BusError PinError)} (history : t.history = s.history ++ es)
      (answered : ∀ e ∈ es, e.unanswered = false) (idle : t.phase = .idle) {r : Response BusError PinError}
      (resp : t.resp = some r)
  | waits {es : List (Event BusError PinError)} (history : t.history = s.history ++ es)
      (unanswered : ∃ e ∈ es, e.unanswered = true) (busy : t.phase = .busy) (resp : t.resp = none)

/-- FRAMEs with a result had every answer. -/
theorem Framed.answered {E P α : Type} {p : CsPolicy} {es : List (Event E P)} {a : BusAnswer α E} (h : Framed p es (some a)) :
    ∀ e ∈ es, e.unanswered = false := by
  cases a with
  | ok _ => exact h.1
  | busErr _ => exact h.1

theorem Ended.completion {α : Type} {s t : State} {good : α → Response BusError PinError} (h : Ended s good t) :
    Completion s t := by
  cases h with
  | hung after framed _ =>
    obtain ⟨unanswered, -⟩ := framed
    exact .waits after.history unanswered rfl rfl
  | done _ after framed _ => exact .responded after.history framed.answered rfl rfl
  | failed _ after framed _ => exact .responded after.history framed.answered rfl rfl

theorem Course.completion {s t : State} (h : Course s t) : Completion s t := by
  cases h with
  | quiet _ _ => exact .responded (List.append_nil _).symm (by simp) rfl rfl
  | driven _ _ _ h => exact .responded (csDrive_history ..) (by simp [h]) rfl rfl
  | driveUnanswered h => exact .waits (csDrive_history ..) (by simp [h]) rfl rfl
  | sampled _ h => exact .responded (drdyRead_history ..) (by simp [h]) rfl rfl
  | sampleUnanswered h => exact .waits (drdyRead_history ..) (by simp [h]) rfl rfl
  | framed _ h => exact h.completion

/-- Settles O46: all three conditions are false of a command that responded and true of one that waits. -/
theorem commandHangsExactlyWhenUnanswered : Obligations.CommandHangsExactlyWhenUnanswered := by
  intro i s t h
  cases (exec_inv h).course.completion with
  | responded history answered idle resp =>
    exact ⟨_, history, by simpa [idle] using answered, by simp [idle, resp]⟩
  | waits history unanswered busy resp =>
    exact ⟨_, history, iff_of_true busy unanswered, iff_of_true busy resp⟩

/-! ### Answering collaborators (R255, R256) -/

/-- No command touches the command port (R31). -/
theorem Effect.commands {i : Instr} {s t : State} (h : Effect s i t) : t.commands = s.commands := by
  obtain ⟨s', es, ha, ht⟩ := h.after
  exact (congrArg State.Of.commands ht).trans ha.commands

/-- A command takes at most six of the answers to come. -/
theorem Effect.answersNext {i : Instr} {s t : State} {n : Nat} (h : Effect s i t) (hs : AnswersNext s (6 + n)) :
    AnswersNext t n := by
  obtain ⟨m, hm, hports⟩ := h.ports
  exact (hs.mono (Nat.add_le_add_right hm n)).advance hports

/-- Settles O47: an illegal command is a response alone; a legal one ends in a response (Effect.idle) and takes at most six answers. -/
theorem answeredCommandsRespond : Obligations.AnsweredCommandsRespond := by
  intro s c rest n hs hp hc
  have accepted : AnswersNext (accept rest s) (6 + n) := hs
  rw [step_of_idle hp hc]
  cases hd : decode c with
  | error _ => exact ⟨_, _, runCommand_of_decode_error hd _, rfl, rfl, rfl, hs.mono (Nat.le_add_left n 6)⟩
  | ok i =>
    obtain ⟨t, ht, effect⟩ := exec_effect i (accept rest s)
    obtain ⟨idle, r, resp⟩ := effect.idle (accepted.mono (Nat.le_add_right 6 n))
    exact ⟨t, r, (runCommand_of_decode_ok hd _).trans ht, idle, resp, effect.commands, effect.answersNext accepted⟩

/-- A step only extends the history (R228). -/
theorem history_prefix_of_step {s t : State} (h : step s = .next t) : s.history <+: t.history := by
  obtain ⟨es, history, -⟩ := chipSelectFollowsTheLastRequest s t h
  exact ⟨es, history.symm⟩

/-- With six answers for each of them, `k` presented commands are run in `k` steps, and the last one's response is presented: induction on `k`, with the first command's step in front. -/
theorem run_of_answersNext (k : Nat) {s : State} (hs : AnswersNext s (6 * k)) (hp : s.phase = .idle) (hk : k ≤ s.commands.length) :
    ∃ t, Host.Core.run core k s = .next t ∧ t.phase = .idle ∧ t.commands = s.commands.drop k ∧ s.history <+: t.history ∧
      (k = 0 ∧ t.resp = s.resp ∨ ∃ r, t.resp = some r) := by
  induction k generalizing s with
  | zero => exact ⟨s, rfl, hp, rfl, List.prefix_rfl, .inl ⟨rfl, rfl⟩⟩
  | succ k ih =>
    obtain ⟨c, rest, hc⟩ := List.exists_cons_of_length_pos (Nat.zero_lt_of_lt hk)
    rw [Nat.mul_succ, Nat.add_comm] at hs
    obtain ⟨t, r, hstep, idle, resp, commands, answers⟩ := answeredCommandsRespond s c rest (6 * k) hs hp hc
    rw [hc] at hk ⊢
    obtain ⟨u, hrun, uidle, ucommands, uhistory, uresp⟩ := ih answers idle (commands ▸ Nat.le_of_succ_le_succ hk)
    refine ⟨u, (run_succ_of_next (M := core) k hstep).trans hrun, uidle, ucommands.trans (by rw [commands]; rfl),
      (history_prefix_of_step hstep).trans uhistory, .inr ?_⟩
    rcases uresp with ⟨-, same⟩ | responds
    · exact ⟨r, same.trans resp⟩
    · exact responds

/-- Settles O48: run_of_answersNext for each number of commands; after all of them none is left. -/
theorem answeredRunsEnd : Obligations.AnsweredRunsEnd := by
  intro s hs hp
  have after (k : Nat) (hk : k ≤ s.commands.length) := run_of_answersNext k (hs.mono (Nat.mul_le_mul_left 6 hk)) hp hk
  constructor
  · intro k hk
    obtain ⟨t, hrun, idle, commands, history, resp⟩ := after k hk
    exact ⟨t, hrun, idle, commands, history, fun h => resp.resolve_left fun ⟨h₀, _⟩ => h h₀⟩
  · obtain ⟨t, hrun, idle, commands, -, resp⟩ := after _ le_rfl
    exact ⟨t, hrun, idle, commands.trans List.drop_length,
      fun h => resp.resolve_left fun ⟨h₀, _⟩ => h (List.length_eq_zero_iff.mp h₀)⟩

/-! ### A CONVERT behind a SETCAL (R252) -/

/-- A step of an IDLE block at whose port the encoder's command stands. -/
theorem step_of_encode {i : Instr} {s : State} {rest : List Command} (hi : i.wellFormed = true) (hp : s.phase = .idle)
    (hc : s.commands = encode i :: rest) : step s = exec i (accept rest s) :=
  stepRunsTheDecodedCommand s _ rest i hp hc (decodeOfEncodeIsTheInstruction i hi)

/-- Below 2^31 the conversion's resistance is the quotient, without reduction of the product (R176). -/
theorem conv_eq_ok_of_lt {p : Params} {raw : RawSample} {cal : Calibration} {t : Temperature} (h : raw.toNat / 2 * cal.toNat < 2 ^ 31)
    (ht : Lut.lookup p.lut (BitVec.ofNat 16 (raw.toNat / 2 * cal.toNat / 2 ^ 15)) = some t) :
    conv p raw cal = .ok (BitVec.ofNat 16 (raw.toNat / 2 * cal.toNat / 2 ^ 15)) t := by
  have hlt : raw.toNat / 2 * cal.toNat < 2 ^ 32 := h.trans (by decide)
  have reduced := Nat.mod_eq_of_lt hlt
  rw [← reduced] at ht ⊢
  exact conv_eq_ok (.inl hlt) ht

/-- SETCAL's step in a READY block: the new CAL is there when the next command is accepted (R140, R252). -/
theorem step_setcal_of_ready {s : State} {cal : Calibration} {rest : List Command} (hp : s.phase = .idle) (hl : s.life = .ready)
    (hc : s.commands = encode (.setcal cal) :: rest) :
    step s = .next { s with cal := cal, commands := rest, resp := some { status := .ok } } := by
  rw [step_of_encode rfl hp hc, setcalOverwritesTheCalibration cal (accept rest s) hl, accept, hp]

/-- CONVERT's step in a READY block responds with the conversion by the CAL it finds (R160). -/
theorem step_convert_of_ready {s : State} {raw : RawSample} {rest : List Command} {c : ConvResult} (hp : s.phase = .idle)
    (hl : s.life = .ready) (hc : s.commands = encode (.convert raw) :: rest) (h : conv s.params raw s.cal = c) :
    step s = .next { s with commands := rest, resp := some (convertResponse c) } := by
  rw [step_of_encode rfl hp hc, exec_convert_of_ready (s := accept rest s) hl h, respond, accept, hp]

/-- Settles O30: SETCAL's step, then CONVERT's on the state it leaves, whose CAL is the new one. -/
theorem convertSeesThePrecedingSetcal : Obligations.ConvertSeesThePrecedingSetcal := by
  intro s cal raw rest t hp hl hc hlt ht
  refine (run_succ_of_next (M := core) 1 (step_setcal_of_ready hp hl hc)).trans (run_succ_of_next (M := core) 0 ?_)
  exact step_convert_of_ready (s := { s with cal := cal, commands := _, resp := _ }) hp hl rfl (conv_eq_ok_of_lt hlt ht)

end Sys2Proof.Machine
end
